-- ==== Sys2Proof/Word.lean ====
section
/-! DEFINITION. The machine word.  Every operand, result, register and access is one 64-bit unsigned
word (spec/00_scope.md R5, R9; spec/20_memory.md R38, R39).  Bit `i` of a register is bit `i` of the
word; there is no byte order at the block's boundary. -/

namespace Sys2Proof

/-- XLEN, the operand, result and register width (R5, R7). -/
abbrev xlen : Nat := 64

/-- A 64-bit word; `toNat` is the unsigned value the rules compute with (R8). -/
abbrev Word := BitVec 64

end Sys2Proof
end

