-- ==== Sys2Proof/Syntax.lean ====
section
/-! DEFINITION. The CORE command set: one constructor per row of spec/opcode_table.json
(spec/30_encoding.md R57).  A command word carries no immediate and no operand field (R60), so no
constructor has an argument. -/

namespace Sys2Proof

/-- The five commands, in the order of their codes (R57). -/
inductive Instr where
  /-- MODADD, OP 0: `mod_add(a, b, m)` of the modular_adder (R71, R72). -/
  | modadd
  /-- MODSUB, OP 1: `mod_sub(a, b, m)` of the modular_subtractor (R76, R77). -/
  | modsub
  /-- MODMUL, OP 2: `mod_mul(a, b, m)` of the modular_multiplier (R80, R81). -/
  | modmul
  /-- MODPOW, OP 3: `mod_pow(a, b, m)` of the modular_exponentiation_engine (R85, R86). -/
  | modpow
  /-- ISPRIME, OP 4: `is_prime(n)` of the miller_rabin_primality_tester (R101, R103). -/
  | isprime
  deriving DecidableEq, Repr

end Sys2Proof
end

