-- ==== Sys2Proof/WellFormed.lean ====
section
/-! DEFINITION. Well-formed command words.  The one instruction format is the CMD word of
spec/30_encoding.md R57, two fields OP and RSVD; R59 says which field values are no command. -/

namespace Sys2Proof

/-- The fields of a command word (R57): OP is bits 2:0, RSVD is bits 63:3. -/
structure CmdFields where
  op : BitVec 3
  rsvd : BitVec 61
  deriving DecidableEq, Repr

/-- Why a command word is illegal (R59).  Both reasons raise the one fault cause ILLEGAL_COMMAND. -/
inductive Illegal where
  /-- Some bit of RSVD, bits 63:3, is 1. -/
  | reservedBitsSet
  /-- RSVD is zero and OP is 5, 6 or 7. -/
  | opReserved
  deriving DecidableEq, Repr

/-- RSVD must be zero (R57). -/
def CmdFields.rsvdZero (f : CmdFields) : Bool := f.rsvd == 0#61

/-- OP must be one of the five codes 0 to 4 (R57). -/
def CmdFields.opAssigned (f : CmdFields) : Bool := decide (f.op.toNat ≤ 4)

/-- The fields are those of a command: both checks hold (R59). -/
def CmdFields.wellFormed (f : CmdFields) : Bool := f.rsvdZero && f.opAssigned

/-- Every term of `Instr` is well formed: no command has an operand field that could be out of range
(R60, R61). -/
def Instr.wellFormed : Instr → Bool
  | .modadd => true
  | .modsub => true
  | .modmul => true
  | .modpow => true
  | .isprime => true

end Sys2Proof
end

