-- ==== Sys2Proof/Decode.lean ====
section
/-! DEFINITION. Decoding, encoding and disassembling a command word (spec/30_encoding.md R57 to R59,
R67).  Decoding is total on every 64-bit word and rejects by name. -/

namespace Sys2Proof

/-- The fields of the word: `OP = v[2:0]`, `RSVD = v[63:3]` (R57). -/
def CmdFields.ofWord (v : Word) : CmdFields :=
  { op := v.extractLsb' 0 3, rsvd := v.extractLsb' 3 61 }

/-- The word of the fields: `{RSVD, OP}` with RSVD in the more significant bits (R9, R57). -/
def CmdFields.toWord (f : CmdFields) : Word := f.rsvd.setWidth 64 <<< 3 ||| f.op.setWidth 64

/-- `Decode(v)` of R58. -/
def decode (v : Word) : Except Illegal Instr :=
  let f := CmdFields.ofWord v
  if f.rsvdZero then
    match f.op.toNat with
    | 0 => .ok .modadd
    | 1 => .ok .modsub
    | 2 => .ok .modmul
    | 3 => .ok .modpow
    | 4 => .ok .isprime
    | _ => .error .opReserved
  else .error .reservedBitsSet

/-- The OP code of a command (R57). -/
def Instr.opcode : Instr → BitVec 3
  | .modadd => 0b000#3
  | .modsub => 0b001#3
  | .modmul => 0b010#3
  | .modpow => 0b011#3
  | .isprime => 0b100#3

/-- The fields of a command's word: its OP code, RSVD zero (R57). -/
def Instr.fields (i : Instr) : CmdFields := { op := i.opcode, rsvd := 0#61 }

/-- The command word of a command (R57). -/
def encode (i : Instr) : Word := i.fields.toWord

/-- The instruction the decoder reads from a word numbered as spec/opcode_table.json numbers it: a
command is one 64-bit word, so bit 0 is the word's bit 0 and every bit above `nbits` is 0.  A value
that does not fit in 64 bits is no command word. -/
def decodeTableWord (nbits w : Nat) : Option Instr :=
  let x := w % 2 ^ nbits
  if x < 2 ^ 64 then
    match decode (BitVec.ofNat 64 x) with
    | .ok i => some i
    | .error _ => none
  else none

/-- A command's mnemonic, as spec/opcode_table.json spells it. -/
def Instr.mnemonic : Instr → String
  | .modadd => "MODADD"
  | .modsub => "MODSUB"
  | .modmul => "MODMUL"
  | .modpow => "MODPOW"
  | .isprime => "ISPRIME"

/-- One hexadecimal digit; the spec's own examples write the digits A to F as capitals (R67 and
spec/95_test_vectors.md section 4; log entry 11). -/
def hexDigit (d : Nat) : Char :=
  if d < 10 then Char.ofNat (48 + d) else Char.ofNat (55 + d)

/-- The `n` low hexadecimal digits of `v`, the most significant first (R9). -/
def hexDigits : Nat → Nat → List Char
  | 0, _ => []
  | n + 1, v => hexDigits n (v / 16) ++ [hexDigit (v % 16)]

/-- The disassembler of R67. -/
def disassemble (v : Word) : String :=
  match decode v with
  | .ok i => i.mnemonic
  | .error _ => ".illegal 0x" ++ String.ofList (hexDigits 16 v.toNat)

end Sys2Proof
end

