-- ==== Sys2Proof/Machine/Kernel.lean ====
section
/-! DEFINITION. The modular arithmetic kernel: the four functions of spec/40_kernel.md, each with the
algorithm the rule gives.  Arithmetic is exact on naturals (spec/00_scope.md R8).  A loop is recursion
on a bound; 64 iterations always suffice, since a 64-bit `b` is zero after 64 shifts (R83, R89; log
entry 9). -/

namespace Sys2Proof.Machine

/-- `mod_add(a, b, m)` (R71). -/
def modAdd (a b m : Nat) : Nat :=
  if a < m ∧ b < m then
    if m - b ≤ a then a - (m - b) else a + b
  else (a % m + b % m) % m

/-- The sign correction both paths of `mod_sub` apply: `a + (m - b)` if `a < b`, else `a - b` (R76). -/
def signCorrect (a b m : Nat) : Nat := if a < b then a + (m - b) else a - b

/-- `mod_sub(a, b, m)` (R76; the slow path reduces first, D14). -/
def modSub (a b m : Nat) : Nat :=
  if a < m ∧ b < m then signCorrect a b m
  else signCorrect (a % m) (b % m) m % m

/-- `f x`, with `x` evaluated before `f` goes on.  The value is `f x` (`withValue_eq`); without it an
evaluation on numerals would carry a loop's accumulators unevaluated through all iterations. -/
def withValue (x : Nat) (f : Nat → Nat) : Nat :=
  match x with
  | 0 => f 0
  | y + 1 => f (y + 1)

/-- The loop of `mod_mul` from the values `r`, `a`, `b`, for at most the given number of iterations:
conditional add, shift, doubling (R80). -/
def modMulLoop (m : Nat) : Nat → Nat → Nat → Nat → Nat
  | 0, r, _, _ => r
  | n + 1, r, a, b =>
    if b = 0 then r
    else
      withValue (if b % 2 = 1 then modAdd r a m else r) fun r' =>
        withValue (modAdd a a m) fun a' => modMulLoop m n r' a' (b / 2)

/-- `mod_mul(a, b, m)` by double-and-add (R80). -/
def modMul (a b m : Nat) : Nat := modMulLoop m 64 0 a b

/-- The loop of `mod_pow` from the values `r`, `a`, `b`, for at most the given number of iterations:
conditional multiply, shift, squaring (R85). -/
def modPowLoop (m : Nat) : Nat → Nat → Nat → Nat → Nat
  | 0, r, _, _ => r
  | n + 1, r, a, b =>
    if b = 0 then r
    else
      withValue (if b % 2 = 1 then modMul r a m else r) fun r' =>
        withValue (modMul a a m) fun a' => modPowLoop m n r' a' (b / 2)

/-- `mod_pow(a, b, m)` by square-and-multiply; the initial 1 is not reduced, so `mod_pow(a, 0, 1) = 1`
(R85, R88; spec/90_conflicts.md C1). -/
def modPow (a b m : Nat) : Nat := modPowLoop m 64 1 a b

end Sys2Proof.Machine
end

