-- ==== Sys2Proof/Machine/State.lean ====
section
/-! DEFINITION. The state as plain data (spec/10_state.md R15 to R30), the reasons a step can stop, and
the state after reset (spec/70_reset_and_hazards.md R141). -/

namespace Sys2Proof.Machine

/-- STATUS.CAUSE: the fault of the most recently accepted command (R26, R121).  The codes 3 to 15 are
never produced, and a state that held one would be ill-formed, so the type has no term for them
(spec/93_implementation_defined.md U8; log entry 7). -/
inductive Cause where
  /-- 0 NONE: no fault. -/
  | noFault
  /-- 1 ILLEGAL_COMMAND: a write to CMD of a word that decodes to no command (R122). -/
  | illegalCommand
  /-- 2 ZERO_MODULUS: a kernel command accepted while `M = 0` (R123). -/
  | zeroModulus
  deriving DecidableEq, Repr

/-- The hidden record INFLIGHT: the command and the operands copied at its acceptance (R30). -/
structure Inflight where
  op : Instr
  a : Word
  b : Word
  m : Word
  deriving DecidableEq, Repr

/-- One HOST access `(we, idx[2:0], wdata[63:0])` (spec/30_encoding.md R56). -/
structure Transaction where
  we : Bool
  idx : BitVec 3
  wdata : Word
  deriving DecidableEq, Repr

/-- The eight slots of the register slot space (spec/20_memory.md R42). -/
inductive Slot where
  | a
  | b
  | m
  | cmd
  | res
  | status
  | reserved6
  | reserved7
  deriving DecidableEq, Repr

/-- What may happen next at the block's boundary or inside it (spec/20_memory.md R48): a HOST access,
ENGINE's turn, or a change of the level of the reset input `rst` (R141).  Log entry 1. -/
inductive Event where
  /-- HOST performs one access (R56). -/
  | host (t : Transaction)
  /-- ENGINE has the next step: completion if `BUSY = 1`, nothing otherwise (R16, R48). -/
  | engine
  /-- The reset input is driven to the given level, `true` for asserted (R141). -/
  | rst (level : Bool)
  deriving DecidableEq, Repr

/-- The machine's state.  The first ten fields are the block's own (R15); `rst`, `rdata` and `pending`
are the model's record of the block's boundary: the level of its reset input, the response it gives in
the step just taken, and the interleaving still to come (log entries 1, 3, 4). -/
structure State where
  /-- Register A, slot 0 (R17). -/
  a : Word
  /-- Register B, slot 1 (R18). -/
  b : Word
  /-- Register M, slot 2 (R19). -/
  m : Word
  /-- Register RES, slot 4 (R21). -/
  res : Word
  /-- STATUS.BUSY, bit 0 (R23). -/
  busy : Bool
  /-- STATUS.DONE, bit 1 (R24). -/
  done : Bool
  /-- STATUS.FAULT, bit 2 (R25). -/
  fault : Bool
  /-- STATUS.CAUSE, bits 7:4 (R26). -/
  cause : Cause
  /-- STATUS.OVR, bit 8 (R27). -/
  ovr : Bool
  /-- INFLIGHT (R30); `none` is the spec's own reset value "unset" (R141; log entry 5). -/
  inflight : Option Inflight
  /-- The level of the reset input (R141; log entry 4). -/
  rst : Bool
  /-- `rdata`, the response of the step just taken: a value after a HOST read, `none` after any other
  step (R56; log entry 3). -/
  rdata : Option Word
  /-- The steps still to come, in order: one interleaving of HOST accesses, ENGINE's turns and changes
  of `rst` (R48; log entry 1). -/
  pending : List Event
  deriving DecidableEq, Repr

/-- Reasons to stop.  Neither can be reached from a state with `State.Inv` (Safety.lean): the spec gives
every HOST access and every completion a defined outcome (R125, R152).  The spec's own two faults are
no stops: they are recorded in STATUS and the machine goes on (R127).  Log entry 6. -/
inductive Fault where
  /-- Raised by completion when `BUSY = 1` and INFLIGHT is unset; R23 says BUSY never is 1 then.  Safe. -/
  | inflightUnset
  /-- Raised by completion when a kernel command with `m = 0` is in flight; R64 says acceptance has
  faulted it before, and no kernel function is defined there (R71, R76, R80, R85).  Safe. -/
  | zeroModulusInFlight
  deriving DecidableEq, Repr

/-- Reasons to refuse. -/
inductive Refusal where
  /-- Raised by an arm of `exec` whose instruction has no meaning yet; no arm raises it.  Safe. -/
  | notModelled (mnemonic : String)
  deriving DecidableEq, Repr

/-- The state right after reset: every register and STATUS field 0, INFLIGHT unset (R141); the reset
input released, no response given, nothing still to come (log entries 2, 3, 4). -/
def State.reset : State :=
  { a := 0#64, b := 0#64, m := 0#64, res := 0#64
    busy := false, done := false, fault := false, cause := .noFault, ovr := false
    inflight := none
    rst := false, rdata := none, pending := [] }

end Sys2Proof.Machine
end

