-- ==== Sys2Proof/Machine/Flags.lean ====
section
/-! DEFINITION. STATUS: its read value and every operation on its fields (spec/10_state.md R22 to R28).
No command computes an arithmetic flag (R34), so these are all the flags there are. -/

namespace Sys2Proof.Machine

/-- The code of a cause in STATUS bits 7:4 (R26). -/
def Cause.code : Cause → Nat
  | .noFault => 0
  | .illegalCommand => 1
  | .zeroModulus => 2

/-- `BUSY + 2*DONE + 4*FAULT + 16*CAUSE + 256*OVR`, the read value of STATUS (R22, R44). -/
def State.statusWord (s : State) : Word :=
  BitVec.ofNat 64
    (s.busy.toNat + 2 * s.done.toNat + 4 * s.fault.toNat + 16 * s.cause.code + 256 * s.ovr.toNat)

/-- The level output `done_o`, equal at every instant to STATUS.DONE (spec/60_exceptions.md R129). -/
def State.doneO (s : State) : Bool := s.done

/-- `DONE <- 0; FAULT <- 0; CAUSE <- 0`, the first effect of every acceptance (R62). -/
def State.clearRecord (s : State) : State :=
  { s with done := false, fault := false, cause := .noFault }

/-- `OVR <- 1`: a HOST write was discarded because `BUSY = 1` (R27, R45). -/
def State.setOvr (s : State) : State := { s with ovr := true }

/-- A HOST write of `v` to STATUS: bit 8 is write-1-to-clear for OVR, nothing else changes (R27, R28). -/
def State.writeStatus (v : Word) (s : State) : State :=
  { s with ovr := s.ovr && !v.getLsbD 8 }

end Sys2Proof.Machine
end

