-- ==== Sys2Proof/Machine/Operands.lean ====
section
/-! DEFINITION. The slot space and the operands: which slot an index names, what a HOST read returns
(spec/20_memory.md R42, R44), the transaction record (spec/30_encoding.md R56), and the operand copy an
acceptance takes (R60, R30). -/

namespace Sys2Proof.Machine

/-- The slot a 3-bit index names; every index names one (R42). -/
def Slot.ofIndex (idx : BitVec 3) : Slot :=
  match idx.toNat with
  | 0 => .a
  | 1 => .b
  | 2 => .m
  | 3 => .cmd
  | 4 => .res
  | 5 => .status
  | 6 => .reserved6
  | _ => .reserved7

/-- The index of a slot (R42). -/
def Slot.index : Slot → BitVec 3
  | .a => 0#3
  | .b => 1#3
  | .m => 2#3
  | .cmd => 3#3
  | .res => 4#3
  | .status => 5#3
  | .reserved6 => 6#3
  | .reserved7 => 7#3

/-- What the slot holds or returns: CMD and the reserved slots hold nothing and return 0 (R20, R29). -/
def State.readSlot (s : State) : Slot → Word
  | .a => s.a
  | .b => s.b
  | .m => s.m
  | .cmd => 0#64
  | .res => s.res
  | .status => s.statusWord
  | .reserved6 => 0#64
  | .reserved7 => 0#64

/-- `RegRead(idx)` of R44. -/
def State.regRead (s : State) (idx : BitVec 3) : Word := s.readSlot (Slot.ofIndex idx)

/-- A transaction as the 68-bit record `{we, idx[2:0], wdata[63:0]}` (R56). -/
def Transaction.toRecord (t : Transaction) : BitVec 68 :=
  (BitVec.ofBool t.we).setWidth 68 <<< 67 ||| t.idx.setWidth 68 <<< 64 ||| t.wdata.setWidth 68

/-- The transaction a 68-bit record stands for (R56). -/
def Transaction.ofRecord (r : BitVec 68) : Transaction :=
  { we := r.getLsbD 67, idx := r.extractLsb' 64 3, wdata := r.extractLsb' 0 64 }

/-- `(op, A, B, M)`, the copy an acceptance takes of the registers as they stand (R30, R60). -/
def State.snapshot (op : Instr) (s : State) : Inflight := { op := op, a := s.a, b := s.b, m := s.m }

end Sys2Proof.Machine
end

