-- ==== Sys2Proof/Machine/Ops.lean ====
section
/-! DEFINITION. The operations the commands share: raising a fault, starting a command, acceptance
(spec/30_encoding.md R62, in the order of spec/60_exceptions.md R126) and writing an operand register
(spec/20_memory.md R45).  The block has no return-from-fault operation: the record stays until the next
acceptance or reset (R128). -/

namespace Sys2Proof.Machine

/-- `raise Fault(c)`: fault entry is precise and changes only DONE, FAULT and CAUSE (R62, R127). -/
def State.raiseFault (c : Cause) (s : State) : State :=
  { s with done := true, fault := true, cause := c }

/-- `INFLIGHT <- (op, A, B, M); BUSY <- 1` (R62). -/
def State.start (op : Instr) (s : State) : State :=
  { s with inflight := some (s.snapshot op), busy := true }

/-- `RES <- v; BUSY <- 0; DONE <- 1` (R63). -/
def State.finish (v : Word) (s : State) : State :=
  { s with res := v, busy := false, done := true }

/-- A write to CMD of the word of command `op`: discarded while `BUSY = 1` (R45), else accepted; a
command that uses the modulus faults when `M = 0` (R62, R123, R126). -/
def acceptCommand (op : Instr) (usesModulus : Bool) (s : State) : Host.Outcome State Fault Refusal :=
  if s.busy then .next s.setOvr
  else if usesModulus && s.m == 0#64 then .next (s.clearRecord.raiseFault .zeroModulus)
  else .next (s.clearRecord.start op)

/-- A write to CMD of a word that is no command: discarded while `BUSY = 1` (R45), else
ILLEGAL_COMMAND (R59, R122). -/
def rejectCommand (s : State) : Host.Outcome State Fault Refusal :=
  if s.busy then .next s.setOvr
  else .next (s.clearRecord.raiseFault .illegalCommand)

/-- `A <- v`, discarded while `BUSY = 1` (R17, R45). -/
def writeA (v : Word) (s : State) : State := if s.busy then s.setOvr else { s with a := v }

/-- `B <- v`, discarded while `BUSY = 1` (R18, R45). -/
def writeB (v : Word) (s : State) : State := if s.busy then s.setOvr else { s with b := v }

/-- `M <- v`, discarded while `BUSY = 1` (R19, R45). -/
def writeM (v : Word) (s : State) : State := if s.busy then s.setOvr else { s with m := v }

/-- Asserting the reset input: every piece of the block's state at its reset value in one step, a
command in flight abandoned (R141, R142).  What HOST does next is not the block's to change. -/
def State.assertReset (s : State) : State :=
  { State.reset with rst := true, pending := s.pending }

end Sys2Proof.Machine
end

