-- ==== Sys2Proof/Machine/KernelCommands.lean ====
section
/-! DEFINITION. MODADD, MODSUB, MODMUL and MODPOW: what the write of each command word to CMD does, and
the value each leaves in RES at completion (spec/40_kernel.md R72, R77, R81, R86). -/

namespace Sys2Proof.Machine

/-- MODADD written to CMD (R72; R62, R126). -/
def execModadd (s : State) : Host.Outcome State Fault Refusal := acceptCommand .modadd true s

/-- MODSUB written to CMD (R77; R62, R126). -/
def execModsub (s : State) : Host.Outcome State Fault Refusal := acceptCommand .modsub true s

/-- MODMUL written to CMD (R81; R62, R126). -/
def execModmul (s : State) : Host.Outcome State Fault Refusal := acceptCommand .modmul true s

/-- MODPOW written to CMD (R86; R62, R126). -/
def execModpow (s : State) : Host.Outcome State Fault Refusal := acceptCommand .modpow true s

/-- A kernel function on words: computed exactly on naturals and narrowed at the end (R8, R90; log
entry 10); no value for `m = 0`, which no rule defines (R64, R71). -/
def kernelResult (f : Nat → Nat → Nat → Nat) (a b m : Word) : Option Word :=
  if m = 0#64 then none else some (BitVec.ofNat 64 (f a.toNat b.toNat m.toNat))

/-- The value of MODADD (R64, R71). -/
def resultModadd (a b m : Word) : Option Word := kernelResult modAdd a b m

/-- The value of MODSUB (R64, R76). -/
def resultModsub (a b m : Word) : Option Word := kernelResult modSub a b m

/-- The value of MODMUL (R64, R80). -/
def resultModmul (a b m : Word) : Option Word := kernelResult modMul a b m

/-- The value of MODPOW (R64, R85). -/
def resultModpow (a b m : Word) : Option Word := kernelResult modPow a b m

end Sys2Proof.Machine
end

