-- ==== Sys2Proof/Machine/Tester.lean ====
section
/-! DEFINITION. The deterministic primality tester (spec/41_primality_tester.md R103).  ISPRIME is
defined by the algorithm and never by primality (R111). -/

namespace Sys2Proof.Machine

/-- BASES, the twelve witness bases, in the order the hardware uses them (spec/00_scope.md R6, R102). -/
def bases : List Nat := [2, 3, 5, 7, 11, 13, 17, 19, 23, 29, 31, 37]

/-- The two terminal outcomes (R108, spec/00_scope.md section 6). -/
inductive Verdict where
  | prime
  | composite
  deriving DecidableEq, Repr

/-- Step 3's loop: halve `q` while it is even, counting into `k`, at most the given number of times. -/
def decomposeLoop : Nat → Nat → Nat → Nat × Nat
  | 0, k, q => (k, q)
  | n + 1, k, q => if q % 2 = 0 then decomposeLoop n (k + 1) (q / 2) else (k, q)

/-- Step 3: `(k, q)` with `n - 1 = 2^k * q` and `q` odd (R105). -/
def decompose (n : Nat) : Nat × Nat := decomposeLoop 64 0 (n - 1)

/-- Step 5's inner loop: for the given number of values of `j` from `j` on, is
`mod_pow(x0, mod_pow(2, j, n-1), n) = n - 1` for one of them (R107)? -/
def reachesMinusOne (n x0 : Nat) : Nat → Nat → Bool
  | 0, _ => false
  | c + 1, j =>
    if modPow x0 (modPow 2 j (n - 1)) n = n - 1 then true else reachesMinusOne n x0 c (j + 1)

/-- A base is inconclusive: the step 4 guard skips it (R106), or `x0 = 1`, or one of the checks of
step 5 succeeds (R107).  Otherwise it is a witness. -/
def inconclusive (n k q a : Nat) : Bool :=
  if n - 1 ≤ a then true
  else if modPow a q n = 1 then true
  else reachesMinusOne n (modPow a q n) k 0

/-- Steps 4 to 6: the bases in order; the first witness ends the test (R108). -/
def testBases (n k q : Nat) : List Nat → Verdict
  | [] => .prime
  | a :: as => if inconclusive n k q a then testBases n k q as else .composite

/-- `is_prime(n)` (R103). -/
def isPrime (n : Nat) : Verdict :=
  if n = 2 ∨ n = 3 then .prime
  else if n = 1 ∨ n % 2 = 0 then .composite
  else testBases n (decompose n).1 (decompose n).2 bases

/-- The carrier of the outcome in RES: 1 for PRIME, 0 for COMPOSITE (R110). -/
def Verdict.word : Verdict → Word
  | .prime => 1#64
  | .composite => 0#64

end Sys2Proof.Machine
end

