-- ==== Sys2Proof/Machine/TesterCommand.lean ====
section
/-! DEFINITION. ISPRIME: what the write of its command word to CMD does, and the value it leaves in RES
at completion (spec/41_primality_tester.md R101, R110). -/

namespace Sys2Proof.Machine

/-- ISPRIME written to CMD; it does not look at `M` and cannot fault (R101, R62). -/
def execIsprime (s : State) : Host.Outcome State Fault Refusal := acceptCommand .isprime false s

/-- The value of ISPRIME: `n` is the copy of A; the copies of B and M are never read (R64, R101). -/
def resultIsprime (a : Word) : Option Word := some (isPrime a.toNat).word

end Sys2Proof.Machine
end

