-- ==== Sys2Proof/Machine/Dispatch.lean ====
section
/-! DEFINITION. What the write of a command's word to CMD does, one arm per command.  The arm is the
command's acceptance; its completion is ENGINE's step, Machine/Engine.lean (log entry 8). -/

namespace Sys2Proof.Machine

def exec (i : Instr) (s : State) : Host.Outcome State Fault Refusal :=
  match i with
  | .modadd => Sys2Proof.Machine.execModadd s
  | .modsub => Sys2Proof.Machine.execModsub s
  | .modmul => Sys2Proof.Machine.execModmul s
  | .modpow => Sys2Proof.Machine.execModpow s
  | .isprime => Sys2Proof.Machine.execIsprime s

end Sys2Proof.Machine
end

