-- ==== Sys2Proof/Machine/Engine.lean ====
section
/-! DEFINITION. ENGINE: its only step is the completion of the command in flight
(spec/10_state.md R16, spec/30_encoding.md R63, R64). -/

namespace Sys2Proof.Machine

/-- `Result(op, a, b, m)` (R64); no value exactly where no rule gives one. -/
def result (f : Inflight) : Option Word :=
  match f.op with
  | .modadd => resultModadd f.a f.b f.m
  | .modsub => resultModsub f.a f.b f.m
  | .modmul => resultModmul f.a f.b f.m
  | .modpow => resultModpow f.a f.b f.m
  | .isprime => resultIsprime f.a

/-- `Complete()` (R63).  The two stops are states the rules exclude (log entry 6). -/
def complete (s : State) : Host.Outcome State Fault Refusal :=
  match s.inflight with
  | none => .fault .inflightUnset
  | some f =>
    match result f with
    | none => .fault .zeroModulusInFlight
    | some v => .next (s.finish v)

/-- ENGINE's turn: completion while `BUSY = 1`, no step otherwise (R16), and none while reset is
asserted (R141). -/
def engineTurn (s : State) : Host.Outcome State Fault Refusal :=
  if s.rst then .next s
  else if s.busy then complete s
  else .next s

end Sys2Proof.Machine
end

