-- ==== Sys2Proof/Machine/HostPort.lean ====
section
/-! DEFINITION. The block's boundary: HOST's reads and writes (spec/20_memory.md R44, R45), the reset
input (spec/70_reset_and_hazards.md R141), and performing one event of the interleaving (R48). -/

namespace Sys2Proof.Machine

/-- A HOST write to CMD (R45, R62): the word is decoded and, where it is a command, that command's
meaning runs. -/
def writeCmd (v : Word) (s : State) : Host.Outcome State Fault Refusal :=
  match decode v with
  | .ok i => exec i s
  | .error _ => rejectCommand s

/-- A HOST write of `v` to a slot (R45). -/
def writeSlot (v : Word) (s : State) : Slot → Host.Outcome State Fault Refusal
  | .a => .next (writeA v s)
  | .b => .next (writeB v s)
  | .m => .next (writeM v s)
  | .cmd => writeCmd v s
  | .res => .next s
  | .status => .next (s.writeStatus v)
  | .reserved6 => .next s
  | .reserved7 => .next s

/-- `RegWrite(idx, v)` of R45. -/
def regWrite (idx : BitVec 3) (v : Word) (s : State) : Host.Outcome State Fault Refusal :=
  writeSlot v s (Slot.ofIndex idx)

/-- A HOST read: the response is `RegRead(idx)` and nothing else changes (R44, R56). -/
def hostRead (idx : BitVec 3) (s : State) : State := { s with rdata := some (s.regRead idx) }

/-- One HOST access; it has no effect while reset is asserted (R56, R141). -/
def hostAccess (t : Transaction) (s : State) : Host.Outcome State Fault Refusal :=
  if s.rst then .next s
  else if t.we then regWrite t.idx t.wdata s
  else .next (hostRead t.idx s)

/-- Driving the reset input: asserting it resets the block, releasing it changes nothing else (R141). -/
def driveReset (level : Bool) (s : State) : State :=
  if level then s.assertReset else { s with rst := false }

/-- One event of the interleaving (R48). -/
def perform (e : Event) (s : State) : Host.Outcome State Fault Refusal :=
  match e with
  | .host t => hostAccess t s
  | .engine => engineTurn s
  | .rst level => .next (driveReset level s)

/-- The next event is taken out and no response stands yet (log entry 3). -/
def State.beginStep (rest : List Event) (s : State) : State :=
  { s with pending := rest, rdata := none }

/-- The write of a command word to CMD, as HOST's transaction (spec/30_encoding.md R56, R57). -/
def cmdWrite (v : Word) : Transaction := { we := true, idx := 3#3, wdata := v }

end Sys2Proof.Machine
end

