-- ==== Sys2Proof/Machine/Step.lean ====
section
/-! DEFINITION. One atomic step of the block (spec/20_memory.md R48): the next event of the
interleaving; when none is left, HOST is silent and ENGINE has the turn, so that no run keeps
`BUSY = 1` forever (spec/70_reset_and_hazards.md R151; log entry 1). -/

namespace Sys2Proof.Machine

/-- One step. -/
def step (s : State) : Host.Outcome State Fault Refusal :=
  match s.pending with
  | [] => engineTurn (s.beginStep [])
  | e :: rest => perform e (s.beginStep rest)

/-- `s` with the command word numbered as spec/opcode_table.json numbers it written to CMD by the very
next step.  The block fetches nothing (spec/10_state.md R32): its next instruction is HOST's next write
to CMD.  An access has an effect only while reset is released, so the reset input is released
(log entry 2). -/
def State.withFetchWord (s : State) (nbits w : Nat) : State :=
  { s with rst := false
           pending := .host (cmdWrite (BitVec.ofNat 64 (w % 2 ^ nbits))) :: s.pending }

end Sys2Proof.Machine
end

