-- ==== Sys2Proof/Config.lean ====
section
/-! DEFINITION. What a platform fixes: the two platform parameters spec/00_scope.md R7 leaves OPEN.  The
third OPEN parameter, LAT, is a free choice of the schedule (spec/10_state.md R15) and stands in
`State.pending` (log entry 1).  BASES is no parameter but a constant of the hardware (R6) and stands in
Machine/Tester.lean. -/

namespace Sys2Proof.Config

/-- The byte orders a byte-addressed bus adapter may carry a word in (R40). -/
inductive ByteOrder where
  | little
  | big
  deriving DecidableEq, Repr, Inhabited

/-- BASE_ADDR, the platform's byte address of slot 0: OPEN (R7, R40, D21), so no proof can see it. -/
opaque baseAddr : Nat

/-- BUS_BYTE_ORDER of a platform bus adapter: OPEN (R7, R40, D20), so no proof can see it. -/
opaque busByteOrder : ByteOrder

end Sys2Proof.Config
end

