-- ==== Sys2Proof/Machine/Adapter.lean ====
section
/-! DEFINITION. What spec/20_memory.md R40 says of a platform's byte-addressed bus adapter.  The adapter
is outside the block and out of scope (spec/00_scope.md R4 (f)); the step does not use it.  BASE_ADDR and
BUS_BYTE_ORDER stay open (log entry 12). -/

namespace Sys2Proof.Machine.Adapter

/-- The first byte address of slot `idx`: `BASE_ADDR + 8*idx` (R40). -/
def slotAddress (idx : BitVec 3) : Nat := Config.baseAddr + 8 * idx.toNat

/-- The slot whose eight byte addresses hold `addr`, if any (R40). -/
def slotOfAddress (addr : Nat) : Option (BitVec 3) :=
  if Config.baseAddr ≤ addr ∧ addr < Config.baseAddr + 64 then
    some (BitVec.ofNat 3 ((addr - Config.baseAddr) / 8))
  else none

/-- The eight bytes of a word, the least significant first. -/
def leBytes (v : Word) : List (BitVec 8) :=
  (List.range 8).map fun k => v.extractLsb' (8 * k) 8

/-- The bytes at ascending addresses in which the adapter carries a whole word (R40). -/
def busBytes (v : Word) : List (BitVec 8) :=
  match Config.busByteOrder with
  | .little => leBytes v
  | .big => (leBytes v).reverse

end Sys2Proof.Machine.Adapter
end

