-- ==== Sys2Proof/Safety.lean ====
section
/-! DEFINITION. What a well-formed state is, and the words statements about steps and runs use. -/

namespace Sys2Proof

/-- The four kernel commands, those that use the modulus (spec/30_encoding.md R62). -/
def Instr.isKernel : Instr → Bool
  | .modadd => true
  | .modsub => true
  | .modmul => true
  | .modpow => true
  | .isprime => false

end Sys2Proof

namespace Sys2Proof.Machine

/-- The invariants of STATUS that spec/10_state.md R28 lists. -/
structure State.StatusInv (s : State) : Prop where
  /-- `BUSY = 1 ⇒ DONE = 0 ∧ FAULT = 0 ∧ CAUSE = 0`. -/
  busy_record : s.busy = true → s.done = false ∧ s.fault = false ∧ s.cause.code = 0
  /-- `FAULT = 1 ⇔ CAUSE ≠ 0`. -/
  fault_cause : s.fault = true ↔ s.cause.code ≠ 0
  /-- `FAULT = 1 ⇒ DONE = 1`. -/
  fault_done : s.fault = true → s.done = true
  /-- `CAUSE ∈ {0, 1, 2}`. -/
  cause_code : s.cause.code = 0 ∨ s.cause.code = 1 ∨ s.cause.code = 2

/-- The well-formed states: every state a run from reset reaches is one. -/
structure State.Inv (s : State) : Prop extends State.StatusInv s where
  /-- While `BUSY = 1`, INFLIGHT holds the accepted command, and a kernel command in flight has a
  nonzero modulus (R23, spec/30_encoding.md R64). -/
  busy_inflight : s.busy = true → ∃ f, s.inflight = some f ∧ (f.op.isKernel = true → f.m ≠ 0#64)
  /-- While reset is asserted the block is in its reset state
  (spec/70_reset_and_hazards.md R141). -/
  rst_reset : s.rst = true →
    s.a = 0#64 ∧ s.b = 0#64 ∧ s.m = 0#64 ∧ s.res = 0#64 ∧ s.busy = false ∧ s.done = false ∧
    s.fault = false ∧ s.cause = .noFault ∧ s.ovr = false ∧ s.inflight = none

/-- The event the next step performs; with none left, ENGINE has the turn (log entry 1). -/
def State.nextEvent (s : State) : Event :=
  match s.pending with
  | [] => .engine
  | e :: _ => e

/-- The word the event writes to slot `idx`, if it is a HOST write to that slot. -/
def Event.writes (idx : BitVec 3) : Event → Option Word
  | .host t => if t.we && t.idx == idx then some t.wdata else none
  | .engine => none
  | .rst _ => none

/-- The event is a HOST write to CMD. -/
def Event.isCmdWrite (e : Event) : Bool := (e.writes 3#3).isSome

/-- The event drives the reset input. -/
def Event.isReset : Event → Bool
  | .host _ => false
  | .engine => false
  | .rst _ => true

/-- The run of exactly `k` steps from `s` ends in `t`. -/
def RunsTo (k : Nat) (s t : State) : Prop := Sys2Proof.core.run k s = .next t

/-- The states agree but for an INFLIGHT that no command uses (spec/10_state.md R30). -/
def State.SameButIdleInflight (s t : State) : Prop :=
  t = { s with inflight := t.inflight } ∧ (s.busy = true → t.inflight = s.inflight)

end Sys2Proof.Machine
end

