-- ==== Sys2Proof/Certificates/Slice0/Obligations.lean ====
section
/-! DEFINITION. The statements for the provers.  Each docstring names the rule of spec/ it formalises, or
says on what it rests.  Where a next state is written out, what it says of `pending`, `rdata` and `rst` is
the model's record of the block's boundary (log entries 1, 3 and 4), not a rule of the spec. -/

open Sys2Proof Sys2Proof.Machine

/-! ### Encoding -/

/-- R58, whole: decoding is total, a word decodes to a command exactly when it is that command's word of
the opcode table, and every other word is illegal, exactly as `Decode` computes it from the two fields. -/
def Obligations.DecodeReadsExactlyTheEncodedWord : Prop :=
  (∀ (v : Word) (i : Instr), decode v = .ok i ↔ v = encode i) ∧
  (encode .modadd = 0x0#64 ∧ encode .modsub = 0x1#64 ∧ encode .modmul = 0x2#64 ∧
    encode .modpow = 0x3#64 ∧ encode .isprime = 0x4#64) ∧
  (∀ v : Word, (∃ e, decode v = .error e) ↔ v.toNat / 8 ≠ 0 ∨ 5 ≤ v.toNat % 8)

/-- A sanity check of R57: command words and illegal words written out bit by bit. -/
def Obligations.WrittenOutCommandWordsDecode : Prop :=
  decode 0b0000000000000000000000000000000000000000000000000000000000000000#64 = .ok .modadd ∧
  decode 0b0000000000000000000000000000000000000000000000000000000000000001#64 = .ok .modsub ∧
  decode 0b0000000000000000000000000000000000000000000000000000000000000010#64 = .ok .modmul ∧
  decode 0b0000000000000000000000000000000000000000000000000000000000000011#64 = .ok .modpow ∧
  decode 0b0000000000000000000000000000000000000000000000000000000000000100#64 = .ok .isprime ∧
  decode 0b0000000000000000000000000000000000000000000000000000000000000101#64 = .error .opReserved ∧
  decode 0b0000000000000000000000000000000000000000000000000000000000000111#64 = .error .opReserved ∧
  decode 0b0000000000000000000000000000000000000000000000000000000000001000#64 = .error .reservedBitsSet ∧
  decode 0b1000000000000000000000000000000000000000000000000000000000000001#64 = .error .reservedBitsSet

/-- The transaction record of R56: 68 bits `{we, idx[2:0], wdata[63:0]}`, nothing dropped either way. -/
def Obligations.TransactionRecordRoundTrips : Prop :=
  (∀ t : Transaction, Transaction.ofRecord t.toRecord = t) ∧
  (∀ r : BitVec 68, (Transaction.ofRecord r).toRecord = r) ∧
  (∀ t : Transaction,
    t.toRecord.toNat = t.we.toNat * 2 ^ 67 + t.idx.toNat * 2 ^ 64 + t.wdata.toNat)

/-- R67, whole: a command word prints as its mnemonic, any other word as `.illegal 0x` and the 16
hexadecimal digits of its value, the most significant first. -/
def Obligations.DisassemblerPrintsMnemonicOrHex : Prop :=
  (∀ i : Instr, disassemble (encode i) = i.mnemonic) ∧
  (disassemble 0x0#64 = "MODADD" ∧ disassemble 0x1#64 = "MODSUB" ∧ disassemble 0x2#64 = "MODMUL" ∧
    disassemble 0x3#64 = "MODPOW" ∧ disassemble 0x4#64 = "ISPRIME") ∧
  ((List.range 16).map (fun d => (hexDigit d).toLower) = "0123456789abcdef".toList) ∧
  (∀ (v : Word) (e : Illegal), decode v = .error e →
    ∃ ds : List Nat, ds.length = 16 ∧ (∀ d ∈ ds, d < 16) ∧ ds.foldl (fun n d => 16 * n + d) 0 = v.toNat ∧
      disassemble v = ".illegal 0x" ++ String.ofList (ds.map hexDigit))

/-! ### Steps -/

/-- The step runs the decoded command: when the next event is HOST's write to CMD of a word that decodes
to `i` and reset is released, the step is `exec i` on the state from which that event is taken (no
response stands).  `withFetchWord` places exactly such an event.  When ENGINE has the turn and a command
is in flight, the step is the command's completion. -/
def Obligations.StepRunsTheDecodedCommand : Prop :=
  (∀ (s : State) (es : List Event) (v : Word) (i : Instr),
    s.rst = false → s.pending = .host ⟨true, 3#3, v⟩ :: es → decode v = .ok i →
      step s = exec i { s with pending := es, rdata := none }) ∧
  (∀ (s : State) (nbits w : Nat) (i : Instr), decodeTableWord nbits w = some i →
      step (s.withFetchWord nbits w) = exec i { s with rst := false, rdata := none }) ∧
  (∀ s : State, s.rst = false → s.busy = true → s.nextEvent = .engine →
      step s = complete { s with pending := s.pending.tail, rdata := none })

/-- R44, whole: a HOST read answers the slot's value and changes no state of the block. -/
def Obligations.HostReadAnswersTheSlot : Prop :=
  ∀ (s : State) (idx : BitVec 3) (w : Word) (es : List Event),
    s.rst = false → s.pending = .host ⟨false, idx, w⟩ :: es →
      step s = .next { s with
        pending := es
        rdata := some
          (if idx = 0#3 then s.a
           else if idx = 1#3 then s.b
           else if idx = 2#3 then s.m
           else if idx = 3#3 then 0#64
           else if idx = 4#3 then s.res
           else if idx = 5#3 then
             BitVec.ofNat 64 (s.busy.toNat + 2 * s.done.toNat + 4 * s.fault.toNat
               + 16 * s.cause.code + 256 * s.ovr.toNat)
           else 0#64) }

/-- R45, whole: what a HOST write to each slot does, while BUSY is 0 and while it is 1, and that a write
to A, B or M is seen by the next read and by the next acceptance. -/
def Obligations.HostWriteChangesTheSlot : Prop :=
  (∀ (s : State) (idx : BitVec 3) (v : Word) (es : List Event),
    s.rst = false → s.pending = .host ⟨true, idx, v⟩ :: es →
      step s =
        let s0 := { s with pending := es, rdata := none }
        if idx.toNat ≤ 3 then
          if s.busy then .next { s0 with ovr := true }
          else if idx = 0#3 then .next { s0 with a := v }
          else if idx = 1#3 then .next { s0 with b := v }
          else if idx = 2#3 then .next { s0 with m := v }
          else match decode v with
            | .ok i => exec i s0
            | .error _ => rejectCommand s0
        else if idx = 5#3 then .next { s0 with ovr := if v.getLsbD 8 then false else s.ovr }
        else .next s0) ∧
  (∀ (s t : State) (idx : BitVec 3) (v : Word) (es : List Event),
    s.rst = false → s.busy = false → idx.toNat ≤ 2 → s.pending = .host ⟨true, idx, v⟩ :: es →
      step s = .next t →
        t.regRead idx = v ∧
        (∀ (i : Instr) (u : State), exec i t = .next u → u.busy = true →
          u.inflight = some ⟨i, t.a, t.b, t.m⟩))

/-- R46, whole: reads and the idempotent writes leave the same state when repeated at once; a CMD write
does not. -/
def Obligations.RepeatedAccessesAreIdempotentButForCmd : Prop :=
  (∀ (s t : State) (x : Transaction), x.we = false → hostAccess x s = .next t →
      hostAccess x t = .next t ∧ t = { s with rdata := t.rdata }) ∧
  (∀ (s t : State) (x : Transaction), x.we = true → x.idx.toNat ≤ 2 → hostAccess x s = .next t →
      hostAccess x t = .next t) ∧
  (∀ (s t : State) (x : Transaction), x.we = true → x.idx = 5#3 → x.wdata.getLsbD 8 = true →
      hostAccess x s = .next t → hostAccess x t = .next t) ∧
  (∀ (s t : State) (x : Transaction), x.we = true → x.idx.toNat ≤ 3 → s.busy = true →
      hostAccess x s = .next t → hostAccess x t = .next t) ∧
  (∀ (s t : State) (i : Instr), s.rst = false → s.busy = false → (i.isKernel = true → s.m ≠ 0#64) →
      hostAccess (cmdWrite (encode i)) s = .next t →
        t.busy = true ∧ ∃ u, hostAccess (cmdWrite (encode i)) t = .next u ∧ u = { t with ovr := true })

/-! ### STATUS -/

/-- R28, whole: bits 3 and 63:9 of STATUS read 0, a HOST write to STATUS changes only OVR and ignores bits
7:0, and every step keeps the four invariants of R28. -/
def Obligations.StatusReservedBitsAndInvariants : Prop :=
  (∀ s : State, s.statusWord.getLsbD 3 = false ∧ ∀ n, 9 ≤ n → s.statusWord.getLsbD n = false) ∧
  (∀ (s : State) (v : Word) (es : List Event),
    s.rst = false → s.pending = .host ⟨true, 5#3, v⟩ :: es →
      step s = .next { s with
        pending := es, rdata := none, ovr := if v.getLsbD 8 then false else s.ovr }) ∧
  (∀ s t : State, s.StatusInv → step s = .next t → t.StatusInv)

/-- The fields of STATUS stand at the bits R22 gives them. -/
def Obligations.StatusFieldsStandAtTheirBits : Prop :=
  ∀ s : State,
    s.statusWord.getLsbD 0 = s.busy ∧ s.statusWord.getLsbD 1 = s.done ∧ s.statusWord.getLsbD 2 = s.fault ∧
    (s.statusWord.extractLsb' 4 4).toNat = s.cause.code ∧ s.statusWord.getLsbD 8 = s.ovr

/-- R27, whole: what each event does to OVR: a discarded write sets it, a STATUS write with bit 8 = 1 or
asserting reset clears it, nothing else changes it (and no HOST access does while reset is asserted). -/
def Obligations.OverrunIsSticky : Prop :=
  ∀ s t : State, step s = .next t →
    t.ovr =
      match s.nextEvent with
      | .rst level => if level then false else s.ovr
      | .engine => s.ovr
      | .host x =>
        if s.rst = true then s.ovr
        else if x.we = true ∧ x.idx.toNat ≤ 3 ∧ s.busy = true then true
        else if x.we = true ∧ x.idx = 5#3 ∧ x.wdata.getLsbD 8 = true then false
        else s.ovr

/-- BUSY rises only by the acceptance of a command that does not fault, which copies the operands as they
stand, and falls only by completion or reset (the sense of R23). -/
def Obligations.BusyRisesByAcceptanceFallsByCompletion : Prop :=
  (∀ s t : State, step s = .next t → s.busy = false → t.busy = true →
    ∃ i, s.nextEvent.writes 3#3 = some (encode i) ∧ s.rst = false ∧ (i.isKernel = true → s.m ≠ 0#64) ∧
      t.inflight = some ⟨i, s.a, s.b, s.m⟩) ∧
  (∀ s t : State, step s = .next t → s.busy = true → t.busy = false →
    s.nextEvent = .rst true ∨
    (s.nextEvent = .engine ∧ ∃ f v, s.inflight = some f ∧ result f = some v ∧ t.res = v ∧ t.done = true))

/-- `done_o` equals STATUS.DONE at every instant; it rises only by completion or a faulting acceptance and
falls only by an acceptance or reset (the sense of R129). -/
def Obligations.DoneOutputFollowsStatus : Prop :=
  (∀ s : State, s.doneO = s.statusWord.getLsbD 1) ∧ State.reset.doneO = false ∧
  (∀ s t : State, step s = .next t → s.doneO = false → t.doneO = true →
    s.rst = false ∧
    ((s.busy = true ∧ s.nextEvent = .engine ∧ t.busy = false) ∨
     (s.busy = false ∧ s.nextEvent.isCmdWrite = true ∧ t.fault = true))) ∧
  (∀ s t : State, step s = .next t → s.doneO = true → t.doneO = false →
    s.nextEvent = .rst true ∨
    (s.rst = false ∧ s.busy = false ∧ s.nextEvent.isCmdWrite = true ∧ t.busy = true))

/-! ### Acceptance and faults -/

/-- R126 and R62, whole: for one CMD write the checks apply in the order busy, illegal, zero modulus, and
only the first that applies takes effect; otherwise the command starts on a copy of the operands.
Faults are raised only while BUSY is 0 and completion is taken only while BUSY is 1. -/
def Obligations.CmdWriteChecksInPriorityOrder : Prop :=
  (∀ (s : State) (v : Word) (es : List Event),
    s.rst = false → s.pending = .host ⟨true, 3#3, v⟩ :: es →
      step s =
        let s0 := { s with pending := es, rdata := none }
        if s.busy then .next { s0 with ovr := true }
        else match decode v with
          | .error _ => .next { s0 with done := true, fault := true, cause := .illegalCommand }
          | .ok i =>
            if i.isKernel = true ∧ s.m = 0#64 then
              .next { s0 with done := true, fault := true, cause := .zeroModulus }
            else
              .next { s0 with
                done := false, fault := false, cause := .noFault
                inflight := some ⟨i, s.a, s.b, s.m⟩, busy := true }) ∧
  (∀ s t : State, s.StatusInv → step s = .next t → t.fault = true → s.busy = false) ∧
  (∀ s t : State, s.nextEvent = .engine → step s = .next t → s.busy = false →
    t = { s with pending := s.pending.tail, rdata := none })

/-- R122, whole: a word with a nonzero bit in 63:3 or with OP 5, 6 or 7, written to CMD while BUSY is 0,
raises ILLEGAL_COMMAND and starts no command; nothing else changes. -/
def Obligations.IllegalCommandWordFaults : Prop :=
  ∀ (s : State) (v : Word) (es : List Event),
    s.rst = false → s.busy = false → s.pending = .host ⟨true, 3#3, v⟩ :: es →
    (v.extractLsb' 3 61 ≠ 0#61 ∨ v.extractLsb' 0 3 = 5#3 ∨ v.extractLsb' 0 3 = 6#3 ∨
      v.extractLsb' 0 3 = 7#3) →
      step s = .next { s with
        pending := es, rdata := none, done := true, fault := true, cause := .illegalCommand }

/-- R123, whole: a kernel command written while BUSY is 0 and M = 0 raises ZERO_MODULUS whatever A and B
hold; ISPRIME never does. -/
def Obligations.ZeroModulusFaultsKernelCommands : Prop :=
  (∀ (s : State) (i : Instr), i.isKernel = true → s.busy = false → s.m = 0#64 →
    exec i s = .next { s with done := true, fault := true, cause := .zeroModulus }) ∧
  (∀ s t : State, exec .isprime s = .next t → s.cause ≠ .zeroModulus → t.cause ≠ .zeroModulus)

/-- R128, whole: the fault record stays as it is until the next acceptance or reset; an acceptance that
does not fault clears it and a second fault replaces it. -/
def Obligations.FaultRecordStaysUntilNextAcceptance : Prop :=
  (∀ s t : State, s.StatusInv → s.fault = true → step s = .next t →
    s.nextEvent.isCmdWrite = false → s.nextEvent ≠ .rst true →
      t.done = true ∧ t.fault = true ∧ t.cause = s.cause) ∧
  (∀ (s t : State) (v : Word), s.StatusInv → s.fault = true → s.rst = false →
    s.nextEvent.writes 3#3 = some v → step s = .next t →
      (t.busy = true ∧ t.done = false ∧ t.fault = false ∧ t.cause = .noFault) ∨
      (t.busy = false ∧ t.done = true ∧ t.fault = true ∧
        t.cause = (match decode v with | .ok _ => Cause.zeroModulus | .error _ => Cause.illegalCommand))) ∧
  (∀ s t : State, s.nextEvent = .rst true → step s = .next t →
    t.done = false ∧ t.fault = false ∧ t.cause = .noFault)

/-! ### The commands -/

/-- MODADD and R73: written while BUSY is 0 and M is not 0, the command is accepted on a copy of the
operands and its completion leaves `(A + B) mod M` in RES; `mod_add` is that residue on all operands. -/
def Obligations.ModaddCompletesWithTheSum : Prop :=
  (∀ s : State, s.busy = false → s.m ≠ 0#64 →
    ∃ t, exec .modadd s = .next t ∧
      t = { s with
        done := false, fault := false, cause := .noFault, busy := true
        inflight := some ⟨.modadd, s.a, s.b, s.m⟩ } ∧
      complete t = .next { t with
        res := BitVec.ofNat 64 ((s.a.toNat + s.b.toNat) % s.m.toNat), busy := false, done := true }) ∧
  (∀ a b m : Nat, a < 2 ^ 64 → b < 2 ^ 64 → 0 < m → m < 2 ^ 64 → modAdd a b m = (a + b) % m)

/-- MODSUB and R78: as MODADD, with the residue in `[0, m)` of the integer `A - B`, which may be
negative. -/
def Obligations.ModsubCompletesWithTheDifference : Prop :=
  (∀ s : State, s.busy = false → s.m ≠ 0#64 →
    ∃ t, exec .modsub s = .next t ∧
      t = { s with
        done := false, fault := false, cause := .noFault, busy := true
        inflight := some ⟨.modsub, s.a, s.b, s.m⟩ } ∧
      complete t = .next { t with
        res := BitVec.ofNat 64 (((s.a.toNat : Int) - s.b.toNat) % s.m.toNat).toNat
        busy := false, done := true }) ∧
  (∀ a b m : Nat, a < 2 ^ 64 → b < 2 ^ 64 → 0 < m → m < 2 ^ 64 →
    (modSub a b m : Int) = ((a : Int) - b) % m) ∧
  (∀ a b m : Nat, a < 2 ^ 64 → b < 2 ^ 64 → 0 < m → m < 2 ^ 64 →
    modAdd (modSub a b m) b m = a % m)

/-- MODMUL and R82: as MODADD, with `(A * B) mod M` of the exact product. -/
def Obligations.ModmulCompletesWithTheProduct : Prop :=
  (∀ s : State, s.busy = false → s.m ≠ 0#64 →
    ∃ t, exec .modmul s = .next t ∧
      t = { s with
        done := false, fault := false, cause := .noFault, busy := true
        inflight := some ⟨.modmul, s.a, s.b, s.m⟩ } ∧
      complete t = .next { t with
        res := BitVec.ofNat 64 ((s.a.toNat * s.b.toNat) % s.m.toNat), busy := false, done := true }) ∧
  (∀ a b m : Nat, a < 2 ^ 64 → b < 2 ^ 64 → 0 < m → m < 2 ^ 64 → modMul a b m = (a * b) % m)

/-- MODPOW, R87 and the first sentence of R88: as MODADD, with 1 for `B = 0` (also where `M = 1`) and
`A ^ B mod M` otherwise. -/
def Obligations.ModpowCompletesWithThePower : Prop :=
  (∀ s : State, s.busy = false → s.m ≠ 0#64 →
    ∃ t, exec .modpow s = .next t ∧
      t = { s with
        done := false, fault := false, cause := .noFault, busy := true
        inflight := some ⟨.modpow, s.a, s.b, s.m⟩ } ∧
      complete t = .next { t with
        res := if s.b = 0#64 then 1#64 else BitVec.ofNat 64 (s.a.toNat ^ s.b.toNat % s.m.toNat)
        busy := false, done := true }) ∧
  (∀ a b m : Nat, a < 2 ^ 64 → b < 2 ^ 64 → 0 < m → m < 2 ^ 64 →
    modPow a b m = if b = 0 then 1 else a ^ b % m)

/-- ISPRIME and R110: written while BUSY is 0, whatever B and M hold, the command is accepted and its
completion leaves 1 in RES for PRIME and 0 for COMPOSITE; it does not depend on B or M. -/
def Obligations.IsprimeCompletesWithTheVerdict : Prop :=
  ∀ s : State, s.busy = false →
    ∃ t, exec .isprime s = .next t ∧
      t = { s with
        done := false, fault := false, cause := .noFault, busy := true
        inflight := some ⟨.isprime, s.a, s.b, s.m⟩ } ∧
      complete t = .next { t with
        res := if isPrime s.a.toNat = .prime then 1#64 else 0#64, busy := false, done := true }

/-! ### Kernel laws -/

/-- R75, whole: in the slow path of `mod_add` the value is the reduced sum of the two remainders, that sum is
at most `2^64 - 2`, and so the slow path computed on 64-bit words, with their wrapping addition, gives the
value of `mod_add`: no input reaches an overflow. -/
def Obligations.SlowPathSumFitsInWord : Prop :=
  (∀ a b m : Nat, a < 2 ^ 64 → b < 2 ^ 64 → 0 < m → m < 2 ^ 64 → ¬(a < m ∧ b < m) →
    modAdd a b m = (a % m + b % m) % m ∧ a % m + b % m ≤ 2 ^ 64 - 2) ∧
  (∀ a b m : Word, m ≠ 0#64 → ¬(a < m ∧ b < m) →
    ((a % m + b % m) % m).toNat = modAdd a.toNat b.toNat m.toNat)

/-- R90, whole: the result ranges of the four kernel functions. -/
def Obligations.KernelResultsStayInRange : Prop :=
  ∀ a b m : Nat, a < 2 ^ 64 → b < 2 ^ 64 → 0 < m → m < 2 ^ 64 →
    modAdd a b m < m ∧ modSub a b m < m ∧ modMul a b m < m ∧
    (¬(b = 0 ∧ m = 1) → modPow a b m < m) ∧ (b = 0 → m = 1 → modPow a b m = 1) ∧
    modAdd a b m < 2 ^ 64 ∧ modSub a b m < 2 ^ 64 ∧ modMul a b m < 2 ^ 64 ∧ modPow a b m < 2 ^ 64

/-! ### The primality tester -/

/-- R104, whole: steps 1 and 2 decide every `n < 5` and every even `n`, and leave odd `n >= 5`. -/
def Obligations.SmallAndEvenNumbersAreDecidedAtOnce : Prop :=
  isPrime 2 = .prime ∧ isPrime 3 = .prime ∧ isPrime 0 = .composite ∧ isPrime 1 = .composite ∧
  (∀ n : Nat, n % 2 = 0 → n ≠ 2 → isPrime n = .composite) ∧
  (∀ n : Nat, ¬(n = 2 ∨ n = 3) → ¬(n = 1 ∨ n % 2 = 0) → n % 2 = 1 ∧ 5 ≤ n)

/-- R105, whole: for odd `n >= 5` step 3 leaves `n - 1 = 2^k * q` with `q` odd and `1 <= k <= 63`. -/
def Obligations.DecompositionIsExact : Prop :=
  ∀ n : Nat, n < 2 ^ 64 → 5 ≤ n → n % 2 = 1 →
    n - 1 = 2 ^ (decompose n).1 * (decompose n).2 ∧ (decompose n).2 % 2 = 1 ∧ 1 ≤ (decompose n).2 ∧
    1 ≤ (decompose n).1 ∧ (decompose n).1 ≤ 63 ∧ 2 ^ (decompose n).1 ≤ n - 1

/-- What R106 and R107 say of one base: a base `a >= n - 1` is skipped; any other is inconclusive exactly
when `a^q mod n = 1` or `a^(q * 2^j) mod n = n - 1` for some `j < k`; and the inner exponent
`mod_pow(2, j, n - 1)` is `2^j`. -/
def Obligations.WitnessLoopChecksTheSquareRoots : Prop :=
  ∀ n k q a : Nat, n < 2 ^ 64 → 5 ≤ n → n % 2 = 1 → q % 2 = 1 → n - 1 = 2 ^ k * q → a < 2 ^ 64 →
    (n - 1 ≤ a → inconclusive n k q a = true) ∧
    (a < n - 1 → (inconclusive n k q a = true ↔
      a ^ q % n = 1 ∨ ∃ j, j < k ∧ a ^ (q * 2 ^ j) % n = n - 1)) ∧
    (∀ j, j < k → modPow 2 j (n - 1) = 2 ^ j)

/-- ISPRIME computes the deterministic Miller-Rabin test: the result is PRIME exactly for 2, for 3, and
for the odd `n >= 5` that are strong probable primes to every base of BASES below `n - 1`
(the sense of R103 to R108). -/
def Obligations.IsPrimeIsTheStrongProbablePrimeTest : Prop :=
  ∀ n : Nat, n < 2 ^ 64 →
    (isPrime n = .prime ↔
      n = 2 ∨ n = 3 ∨
      (5 ≤ n ∧ n % 2 = 1 ∧
        ∃ k q, n - 1 = 2 ^ k * q ∧ q % 2 = 1 ∧
          ∀ a ∈ [2, 3, 5, 7, 11, 13, 17, 19, 23, 29, 31, 37], a < n - 1 →
            a ^ q % n = 1 ∨ ∃ j, j < k ∧ a ^ (q * 2 ^ j) % n = n - 1))

/-- A prime is never declared COMPOSITE: for every state whose A holds a prime, ISPRIME completes with
RES = 1 (one direction of the claim R111 leaves to a theorem; the argument is that of
spec/90_conflicts.md C2). -/
def Obligations.PrimesAreNeverDeclaredComposite : Prop :=
  (∀ p : Nat, p < 2 ^ 64 → p.Prime → isPrime p = .prime) ∧
  (∀ s : State, s.busy = false → s.a.toNat.Prime →
    ∃ t u, exec .isprime s = .next t ∧ complete t = .next u ∧ u.res = 1#64)

/-- R102, whole: the tester uses BASES in its listed order, and for every `n` that steps 1 and 2 leave the
same bases in any other order give the same result. -/
def Obligations.BaseOrderDoesNotChangeTheResult : Prop :=
  bases = [2, 3, 5, 7, 11, 13, 17, 19, 23, 29, 31, 37] ∧
  (∀ (n : Nat) (l : List Nat), ¬(n = 2 ∨ n = 3) → ¬(n = 1 ∨ n % 2 = 0) → l.Perm bases →
    isPrime n = testBases n (decompose n).1 (decompose n).2 bases ∧
    testBases n (decompose n).1 (decompose n).2 l = isPrime n)

/-! ### Reset -/

/-- R141, whole: asserting reset puts every piece of the block's state at its reset value in one step,
whatever the state; while reset is asserted HOST accesses and ENGINE's turn have no effect; after reset
every slot reads 0 and `done_o` is 0. -/
def Obligations.ResetPutsEverythingAtItsResetValue : Prop :=
  (∀ (s : State) (es : List Event), s.pending = .rst true :: es →
    step s = .next
      { a := 0#64, b := 0#64, m := 0#64, res := 0#64
        busy := false, done := false, fault := false, cause := .noFault, ovr := false
        inflight := none, rst := true, rdata := none, pending := es }) ∧
  (∀ s : State, s.rst = true → s.nextEvent.isReset = false →
    step s = .next { s with pending := s.pending.tail, rdata := none }) ∧
  (∀ (s : State) (es : List Event), s.pending = .rst false :: es →
    step s = .next { s with rst := false, pending := es, rdata := none }) ∧
  State.reset.statusWord = 0x0000000000000000#64 ∧ State.reset.doneO = false ∧
  (∀ idx : BitVec 3, State.reset.regRead idx = 0#64)

/-- R142, whole: reset abandons the command in flight, which never completes and never writes RES; nothing
else cancels a command: any other event leaves it in flight with RES unchanged, or is its completion. -/
def Obligations.ResetAbandonsAndNothingElseCancels : Prop :=
  (∀ (s t : State) (es : List Event) (k : Nat), s.pending = .rst true :: es →
    (∀ e ∈ es, e.isCmdWrite = false) → RunsTo (k + 1) s t → t.busy = false ∧ t.res = 0#64) ∧
  (∀ s t : State, s.busy = true → s.nextEvent ≠ .rst true → step s = .next t →
    (t.busy = true ∧ t.inflight = s.inflight ∧ t.res = s.res) ∨
    (s.nextEvent = .engine ∧ ∃ f v, s.inflight = some f ∧ result f = some v ∧
      t.res = v ∧ t.busy = false ∧ t.done = true))

/-! ### Whole-machine rules and runs -/

/-- A, B and M change only by a HOST write to their own slot while BUSY is 0, or by reset
(the sense of R17, R18, R19): no command writes them. -/
def Obligations.OnlyHostWritesTheOperandRegisters : Prop :=
  ∀ s t : State, s.rst = false → step s = .next t →
    let after := fun (idx : BitVec 3) (old : Word) =>
      if s.nextEvent = .rst true then 0#64
      else if s.busy then old
      else (s.nextEvent.writes idx).getD old
    t.a = after 0#3 s.a ∧ t.b = after 1#3 s.b ∧ t.m = after 2#3 s.m

/-- RES changes only by the completion of the command in flight, which writes that command's result, or
by reset (the sense of R21). -/
def Obligations.OnlyCompletionWritesTheResult : Prop :=
  ∀ s t : State, step s = .next t →
    t.res = s.res ∨ (s.nextEvent = .rst true ∧ t.res = 0#64) ∨
    (s.nextEvent = .engine ∧ s.rst = false ∧ s.busy = true ∧
      ∃ f, s.inflight = some f ∧ result f = some t.res)

/-- The well-formedness invariant holds at reset, whatever HOST and ENGINE do next. -/
def Obligations.InvariantHoldsAtReset : Prop :=
  State.reset.Inv ∧ ∀ es : List Event, State.Inv { State.reset with pending := es }

/-- Every step from a well-formed state answers a well-formed next state: the invariants of R28, that an
in-flight kernel command has a nonzero modulus, and that an asserted reset holds the block at its reset
values; it never faults and is never refused (the sense of R125 and R152). -/
def Obligations.StepKeepsTheInvariantAndNeverStops : Prop :=
  ∀ s : State, s.Inv → ∃ t, step s = .next t ∧ t.Inv

/-- R149's second sentence over a run: while a command is in flight and no event of the run asserts reset,
whatever HOST does, the block still holds the command on its copy of the operands and RES is unchanged, or
the command has completed with the result of that copy. -/
def Obligations.AcceptedCommandIsUnaffectedByHost : Prop :=
  ∀ (s t : State) (f : Inflight) (k : Nat), s.Inv → s.busy = true → s.inflight = some f →
    (∀ e ∈ s.pending.take k, e ≠ .rst true) → RunsTo k s t →
      (t.busy = true ∧ t.inflight = some f ∧ t.res = s.res) ∨
      (∃ j u v, j ≤ k ∧ RunsTo j s u ∧ result f = some v ∧ u.res = v ∧ u.busy = false ∧ u.done = true)

/-- Every accepted command completes with its result after finitely many steps unless reset comes first (the
sense of R151): where no event before ENGINE's first turn asserts reset, the command is in flight until
that turn and the turn completes it, whatever HOST does before it and whatever follows it.  Where no turn of
ENGINE is pending, the turn comes when HOST has nothing left to do; that is the model's form of weak
fairness (log entry 1). -/
def Obligations.AcceptedCommandCompletes : Prop :=
  ∀ (s : State) (f : Inflight), s.Inv → s.busy = true → s.inflight = some f →
    let before := s.pending.takeWhile fun e => decide (e ≠ .engine)
    (∀ e ∈ before, e ≠ .rst true) →
      (∃ t v, RunsTo (before.length + 1) s t ∧ result f = some v ∧
        t.res = v ∧ t.busy = false ∧ t.done = true ∧ t.fault = false) ∧
      (∀ (k : Nat) (t : State), k ≤ before.length → RunsTo k s t →
        t.busy = true ∧ t.inflight = some f ∧ t.res = s.res)

/-- Synchronisation through STATUS (the sense of R50).  Take a command in flight and a run none of whose
events asserts reset and in which HOST makes no further accepted CMD write, that is no CMD write while BUSY
is 0.  Wherever BUSY is 0 on that run, DONE is 1, FAULT is 0, and a read of RES answers the command's result.
If an acceptance faulted, a read of STATUS next shows DONE = 1, FAULT = 1 and the cause. -/
def Obligations.ResultStaysReadableUntilTheNextCommand : Prop :=
  (∀ (s t : State) (f : Inflight) (v : Word) (k : Nat), s.Inv → s.busy = true → s.inflight = some f →
    result f = some v → (∀ e ∈ s.pending.take k, e ≠ .rst true) →
    (∀ (j : Nat) (u : State), j < k → RunsTo j s u → u.busy = false → u.nextEvent.isCmdWrite = false) →
    RunsTo k s t → t.busy = false →
      t.done = true ∧ t.fault = false ∧
      ∀ (w : Word) (es : List Event),
        step { t with pending := .host ⟨false, 4#3, w⟩ :: es } =
          .next { t with pending := es, rdata := some v }) ∧
  (∀ (s t : State), s.rst = false → s.busy = false → s.nextEvent.isCmdWrite = true → step s = .next t →
    t.busy = false →
      ∀ (w : Word) (es : List Event), ∃ r : Word,
        step { t with pending := .host ⟨false, 5#3, w⟩ :: es } =
          .next { t with pending := es, rdata := some r } ∧
        r.getLsbD 1 = true ∧ r.getLsbD 2 = true ∧
        (r.extractLsb' 4 4).toNat = t.cause.code ∧ t.cause ≠ .noFault)

/-- INFLIGHT is irrelevant while BUSY is 0 (R30): two states that differ only there do the same step and
again differ only there, so no response, register or STATUS bit ever shows it. -/
def Obligations.IdleInflightIsUnobservable : Prop :=
  ∀ s t s' : State, s.SameButIdleInflight t → step s = .next s' →
    ∃ t', step t = .next t' ∧ s'.SameButIdleInflight t' ∧ t'.rdata = s'.rdata

/-- R49 as a litmus test: a completion and a HOST write to A may come in either order; RES is the same,
and the write lands or is discarded with OVR. -/
def Obligations.CompletionAndWriteInEitherOrder : Prop :=
  ∀ (s : State) (f : Inflight) (v w : Word) (es : List Event),
    s.rst = false → s.busy = true → s.inflight = some f → result f = some v →
      RunsTo 2 { s with pending := .engine :: .host ⟨true, 0#3, w⟩ :: es }
        { s with res := v, busy := false, done := true, a := w, rdata := none, pending := es } ∧
      RunsTo 2 { s with pending := .host ⟨true, 0#3, w⟩ :: .engine :: es }
        { s with res := v, busy := false, done := true, ovr := true, rdata := none, pending := es }

/-! ### The bus adapter -/

/-- R40's map: slot `idx` is at `BASE_ADDR + 8*idx`, each of the eight byte addresses `BASE_ADDR + 8*idx` to
`BASE_ADDR + 8*idx + 7` leads to slot `idx`, an address that leads to slot `idx` is one of those eight, and
every other address leads to no slot; this holds whatever BASE_ADDR is. -/
def Obligations.AdapterMapsEightBytesToEachSlot : Prop :=
  (∀ idx : BitVec 3, Adapter.slotAddress idx = Config.baseAddr + 8 * idx.toNat) ∧
  (∀ (idx : BitVec 3) (k : Nat), k < 8 →
    Adapter.slotOfAddress (Config.baseAddr + 8 * idx.toNat + k) = some idx) ∧
  (∀ (addr : Nat) (idx : BitVec 3), Adapter.slotOfAddress addr = some idx →
    Config.baseAddr + 8 * idx.toNat ≤ addr ∧ addr ≤ Config.baseAddr + 8 * idx.toNat + 7) ∧
  (∀ addr : Nat, addr < Config.baseAddr ∨ Config.baseAddr + 64 ≤ addr →
    Adapter.slotOfAddress addr = none)
end

