-- ==== Sys2Proof/Laws/Kernel.lean ====
section
/-! SUPPORT. The unfolding equations of the kernel's and the tester's loops, one per case, so that a
proof rewrites with them instead of unfolding a loop. -/

namespace Sys2Proof.Machine

/-- Evaluating the argument first changes no value. -/
@[simp] theorem withValue_eq (x : Nat) (f : Nat → Nat) : withValue x f = f x := by
  cases x <;> rfl

theorem modAdd_fast {a b m : Nat} (ha : a < m) (hb : b < m) :
    modAdd a b m = if m - b ≤ a then a - (m - b) else a + b := by
  simp [modAdd, ha, hb]

theorem modAdd_slow {a b m : Nat} (h : ¬(a < m ∧ b < m)) : modAdd a b m = (a % m + b % m) % m := by
  rw [modAdd, if_neg h]

theorem modSub_fast {a b m : Nat} (ha : a < m) (hb : b < m) : modSub a b m = signCorrect a b m := by
  simp [modSub, ha, hb]

theorem modSub_slow {a b m : Nat} (h : ¬(a < m ∧ b < m)) :
    modSub a b m = signCorrect (a % m) (b % m) m % m := by
  rw [modSub, if_neg h]

@[simp] theorem modMulLoop_none (m r a b : Nat) : modMulLoop m 0 r a b = r := rfl

@[simp] theorem modMulLoop_done (m n r a : Nat) : modMulLoop m n r a 0 = r := by
  cases n <;> simp [modMulLoop]

theorem modMulLoop_iter (m n r a : Nat) {b : Nat} (hb : b ≠ 0) :
    modMulLoop m (n + 1) r a b =
      modMulLoop m n (if b % 2 = 1 then modAdd r a m else r) (modAdd a a m) (b / 2) := by
  simp [modMulLoop, hb]

@[simp] theorem modPowLoop_none (m r a b : Nat) : modPowLoop m 0 r a b = r := rfl

@[simp] theorem modPowLoop_done (m n r a : Nat) : modPowLoop m n r a 0 = r := by
  cases n <;> simp [modPowLoop]

theorem modPowLoop_iter (m n r a : Nat) {b : Nat} (hb : b ≠ 0) :
    modPowLoop m (n + 1) r a b =
      modPowLoop m n (if b % 2 = 1 then modMul r a m else r) (modMul a a m) (b / 2) := by
  simp [modPowLoop, hb]

theorem decomposeLoop_even (n k : Nat) {q : Nat} (hq : q % 2 = 0) :
    decomposeLoop (n + 1) k q = decomposeLoop n (k + 1) (q / 2) := by
  simp [decomposeLoop, hq]

theorem decomposeLoop_odd (n k : Nat) {q : Nat} (hq : q % 2 = 1) : decomposeLoop n k q = (k, q) := by
  cases n <;> simp [decomposeLoop, hq]

/-- The inner loop finds a `j` exactly where one of its checks succeeds. -/
theorem reachesMinusOne_iff (n x0 c j : Nat) :
    reachesMinusOne n x0 c j = true ↔
      ∃ i, i < c ∧ modPow x0 (modPow 2 (j + i) (n - 1)) n = n - 1 := by
  induction c generalizing j with
  | zero => simp [reachesMinusOne]
  | succ c ih =>
    rw [reachesMinusOne]
    split
    · exact iff_of_true rfl ⟨0, by omega, by simpa⟩
    · rename_i hj
      rw [ih]
      constructor
      · rintro ⟨i, hi, h⟩
        exact ⟨i + 1, by omega, by rwa [show j + (i + 1) = j + 1 + i by omega]⟩
      · rintro ⟨i, hi, h⟩
        cases i with
        | zero => exact absurd (by simpa using h) hj
        | succ i => exact ⟨i, by omega, by rwa [show j + 1 + i = j + (i + 1) by omega]⟩

/-- The test ends with PRIME exactly where every base is inconclusive. -/
theorem testBases_prime_iff (n k q : Nat) (l : List Nat) :
    testBases n k q l = .prime ↔ ∀ a ∈ l, inconclusive n k q a = true := by
  induction l with
  | nil => simp [testBases]
  | cons a l ih =>
    rw [testBases]
    split <;> simp_all

end Sys2Proof.Machine
end

