-- ==== Sys2Proof/Laws/State.lean ====
section
/-! SUPPORT. One lemma per field per update of State, so that no proof unfolds a record update. -/

namespace Sys2Proof.Machine

variable (s : State)

@[simp] theorem clearRecord_a : s.clearRecord.a = s.a := rfl
@[simp] theorem clearRecord_b : s.clearRecord.b = s.b := rfl
@[simp] theorem clearRecord_m : s.clearRecord.m = s.m := rfl
@[simp] theorem clearRecord_res : s.clearRecord.res = s.res := rfl
@[simp] theorem clearRecord_busy : s.clearRecord.busy = s.busy := rfl
@[simp] theorem clearRecord_done : s.clearRecord.done = false := rfl
@[simp] theorem clearRecord_fault : s.clearRecord.fault = false := rfl
@[simp] theorem clearRecord_cause : s.clearRecord.cause = .noFault := rfl
@[simp] theorem clearRecord_ovr : s.clearRecord.ovr = s.ovr := rfl
@[simp] theorem clearRecord_inflight : s.clearRecord.inflight = s.inflight := rfl
@[simp] theorem clearRecord_rst : s.clearRecord.rst = s.rst := rfl
@[simp] theorem clearRecord_rdata : s.clearRecord.rdata = s.rdata := rfl
@[simp] theorem clearRecord_pending : s.clearRecord.pending = s.pending := rfl

@[simp] theorem setOvr_a : s.setOvr.a = s.a := rfl
@[simp] theorem setOvr_b : s.setOvr.b = s.b := rfl
@[simp] theorem setOvr_m : s.setOvr.m = s.m := rfl
@[simp] theorem setOvr_res : s.setOvr.res = s.res := rfl
@[simp] theorem setOvr_busy : s.setOvr.busy = s.busy := rfl
@[simp] theorem setOvr_done : s.setOvr.done = s.done := rfl
@[simp] theorem setOvr_fault : s.setOvr.fault = s.fault := rfl
@[simp] theorem setOvr_cause : s.setOvr.cause = s.cause := rfl
@[simp] theorem setOvr_ovr : s.setOvr.ovr = true := rfl
@[simp] theorem setOvr_inflight : s.setOvr.inflight = s.inflight := rfl
@[simp] theorem setOvr_rst : s.setOvr.rst = s.rst := rfl
@[simp] theorem setOvr_rdata : s.setOvr.rdata = s.rdata := rfl
@[simp] theorem setOvr_pending : s.setOvr.pending = s.pending := rfl

@[simp] theorem writeStatus_a (v : Word) : (s.writeStatus v).a = s.a := rfl
@[simp] theorem writeStatus_b (v : Word) : (s.writeStatus v).b = s.b := rfl
@[simp] theorem writeStatus_m (v : Word) : (s.writeStatus v).m = s.m := rfl
@[simp] theorem writeStatus_res (v : Word) : (s.writeStatus v).res = s.res := rfl
@[simp] theorem writeStatus_busy (v : Word) : (s.writeStatus v).busy = s.busy := rfl
@[simp] theorem writeStatus_done (v : Word) : (s.writeStatus v).done = s.done := rfl
@[simp] theorem writeStatus_fault (v : Word) : (s.writeStatus v).fault = s.fault := rfl
@[simp] theorem writeStatus_cause (v : Word) : (s.writeStatus v).cause = s.cause := rfl
@[simp] theorem writeStatus_ovr (v : Word) : (s.writeStatus v).ovr = (s.ovr && !v.getLsbD 8) := rfl
@[simp] theorem writeStatus_inflight (v : Word) : (s.writeStatus v).inflight = s.inflight := rfl
@[simp] theorem writeStatus_rst (v : Word) : (s.writeStatus v).rst = s.rst := rfl
@[simp] theorem writeStatus_rdata (v : Word) : (s.writeStatus v).rdata = s.rdata := rfl
@[simp] theorem writeStatus_pending (v : Word) : (s.writeStatus v).pending = s.pending := rfl

@[simp] theorem raiseFault_a (c : Cause) : (s.raiseFault c).a = s.a := rfl
@[simp] theorem raiseFault_b (c : Cause) : (s.raiseFault c).b = s.b := rfl
@[simp] theorem raiseFault_m (c : Cause) : (s.raiseFault c).m = s.m := rfl
@[simp] theorem raiseFault_res (c : Cause) : (s.raiseFault c).res = s.res := rfl
@[simp] theorem raiseFault_busy (c : Cause) : (s.raiseFault c).busy = s.busy := rfl
@[simp] theorem raiseFault_done (c : Cause) : (s.raiseFault c).done = true := rfl
@[simp] theorem raiseFault_fault (c : Cause) : (s.raiseFault c).fault = true := rfl
@[simp] theorem raiseFault_cause (c : Cause) : (s.raiseFault c).cause = c := rfl
@[simp] theorem raiseFault_ovr (c : Cause) : (s.raiseFault c).ovr = s.ovr := rfl
@[simp] theorem raiseFault_inflight (c : Cause) : (s.raiseFault c).inflight = s.inflight := rfl
@[simp] theorem raiseFault_rst (c : Cause) : (s.raiseFault c).rst = s.rst := rfl
@[simp] theorem raiseFault_rdata (c : Cause) : (s.raiseFault c).rdata = s.rdata := rfl
@[simp] theorem raiseFault_pending (c : Cause) : (s.raiseFault c).pending = s.pending := rfl

@[simp] theorem start_a (i : Instr) : (s.start i).a = s.a := rfl
@[simp] theorem start_b (i : Instr) : (s.start i).b = s.b := rfl
@[simp] theorem start_m (i : Instr) : (s.start i).m = s.m := rfl
@[simp] theorem start_res (i : Instr) : (s.start i).res = s.res := rfl
@[simp] theorem start_busy (i : Instr) : (s.start i).busy = true := rfl
@[simp] theorem start_done (i : Instr) : (s.start i).done = s.done := rfl
@[simp] theorem start_fault (i : Instr) : (s.start i).fault = s.fault := rfl
@[simp] theorem start_cause (i : Instr) : (s.start i).cause = s.cause := rfl
@[simp] theorem start_ovr (i : Instr) : (s.start i).ovr = s.ovr := rfl
@[simp] theorem start_inflight (i : Instr) : (s.start i).inflight = some ⟨i, s.a, s.b, s.m⟩ := rfl
@[simp] theorem start_rst (i : Instr) : (s.start i).rst = s.rst := rfl
@[simp] theorem start_rdata (i : Instr) : (s.start i).rdata = s.rdata := rfl
@[simp] theorem start_pending (i : Instr) : (s.start i).pending = s.pending := rfl

@[simp] theorem finish_a (v : Word) : (s.finish v).a = s.a := rfl
@[simp] theorem finish_b (v : Word) : (s.finish v).b = s.b := rfl
@[simp] theorem finish_m (v : Word) : (s.finish v).m = s.m := rfl
@[simp] theorem finish_res (v : Word) : (s.finish v).res = v := rfl
@[simp] theorem finish_busy (v : Word) : (s.finish v).busy = false := rfl
@[simp] theorem finish_done (v : Word) : (s.finish v).done = true := rfl
@[simp] theorem finish_fault (v : Word) : (s.finish v).fault = s.fault := rfl
@[simp] theorem finish_cause (v : Word) : (s.finish v).cause = s.cause := rfl
@[simp] theorem finish_ovr (v : Word) : (s.finish v).ovr = s.ovr := rfl
@[simp] theorem finish_inflight (v : Word) : (s.finish v).inflight = s.inflight := rfl
@[simp] theorem finish_rst (v : Word) : (s.finish v).rst = s.rst := rfl
@[simp] theorem finish_rdata (v : Word) : (s.finish v).rdata = s.rdata := rfl
@[simp] theorem finish_pending (v : Word) : (s.finish v).pending = s.pending := rfl

@[simp] theorem assertReset_a : s.assertReset.a = 0#64 := rfl
@[simp] theorem assertReset_b : s.assertReset.b = 0#64 := rfl
@[simp] theorem assertReset_m : s.assertReset.m = 0#64 := rfl
@[simp] theorem assertReset_res : s.assertReset.res = 0#64 := rfl
@[simp] theorem assertReset_busy : s.assertReset.busy = false := rfl
@[simp] theorem assertReset_done : s.assertReset.done = false := rfl
@[simp] theorem assertReset_fault : s.assertReset.fault = false := rfl
@[simp] theorem assertReset_cause : s.assertReset.cause = .noFault := rfl
@[simp] theorem assertReset_ovr : s.assertReset.ovr = false := rfl
@[simp] theorem assertReset_inflight : s.assertReset.inflight = none := rfl
@[simp] theorem assertReset_rst : s.assertReset.rst = true := rfl
@[simp] theorem assertReset_rdata : s.assertReset.rdata = none := rfl
@[simp] theorem assertReset_pending : s.assertReset.pending = s.pending := rfl

@[simp] theorem hostRead_a (i : BitVec 3) : (hostRead i s).a = s.a := rfl
@[simp] theorem hostRead_b (i : BitVec 3) : (hostRead i s).b = s.b := rfl
@[simp] theorem hostRead_m (i : BitVec 3) : (hostRead i s).m = s.m := rfl
@[simp] theorem hostRead_res (i : BitVec 3) : (hostRead i s).res = s.res := rfl
@[simp] theorem hostRead_busy (i : BitVec 3) : (hostRead i s).busy = s.busy := rfl
@[simp] theorem hostRead_done (i : BitVec 3) : (hostRead i s).done = s.done := rfl
@[simp] theorem hostRead_fault (i : BitVec 3) : (hostRead i s).fault = s.fault := rfl
@[simp] theorem hostRead_cause (i : BitVec 3) : (hostRead i s).cause = s.cause := rfl
@[simp] theorem hostRead_ovr (i : BitVec 3) : (hostRead i s).ovr = s.ovr := rfl
@[simp] theorem hostRead_inflight (i : BitVec 3) : (hostRead i s).inflight = s.inflight := rfl
@[simp] theorem hostRead_rst (i : BitVec 3) : (hostRead i s).rst = s.rst := rfl
@[simp] theorem hostRead_rdata (i : BitVec 3) : (hostRead i s).rdata = some (s.regRead i) := rfl
@[simp] theorem hostRead_pending (i : BitVec 3) : (hostRead i s).pending = s.pending := rfl

@[simp] theorem beginStep_a (es : List Event) : (s.beginStep es).a = s.a := rfl
@[simp] theorem beginStep_b (es : List Event) : (s.beginStep es).b = s.b := rfl
@[simp] theorem beginStep_m (es : List Event) : (s.beginStep es).m = s.m := rfl
@[simp] theorem beginStep_res (es : List Event) : (s.beginStep es).res = s.res := rfl
@[simp] theorem beginStep_busy (es : List Event) : (s.beginStep es).busy = s.busy := rfl
@[simp] theorem beginStep_done (es : List Event) : (s.beginStep es).done = s.done := rfl
@[simp] theorem beginStep_fault (es : List Event) : (s.beginStep es).fault = s.fault := rfl
@[simp] theorem beginStep_cause (es : List Event) : (s.beginStep es).cause = s.cause := rfl
@[simp] theorem beginStep_ovr (es : List Event) : (s.beginStep es).ovr = s.ovr := rfl
@[simp] theorem beginStep_inflight (es : List Event) : (s.beginStep es).inflight = s.inflight := rfl
@[simp] theorem beginStep_rst (es : List Event) : (s.beginStep es).rst = s.rst := rfl
@[simp] theorem beginStep_rdata (es : List Event) : (s.beginStep es).rdata = none := rfl
@[simp] theorem beginStep_pending (es : List Event) : (s.beginStep es).pending = es := rfl

end Sys2Proof.Machine
end

