-- ==== Sys2Proof/Laws/Ops.lean ====
section
/-! SUPPORT. One lemma per shared operation that says everything it can do; provers cite these instead of
unfolding the operation. -/

namespace Sys2Proof.Machine

theorem acceptCommand_busy {s : State} (h : s.busy = true) (i : Instr) (u : Bool) :
    acceptCommand i u s = .next s.setOvr := by
  simp [acceptCommand, h]

theorem acceptCommand_zero {s : State} (h : s.busy = false) (i : Instr) (hm : s.m = 0#64) :
    acceptCommand i true s = .next (s.clearRecord.raiseFault .zeroModulus) := by
  simp [acceptCommand, h, hm]

theorem acceptCommand_start {s : State} (h : s.busy = false) (i : Instr) {u : Bool}
    (hm : u = true → s.m ≠ 0#64) : acceptCommand i u s = .next (s.clearRecord.start i) := by
  cases u <;> simp_all [acceptCommand]

/-- Everything a CMD write of a command word can do: discard, fault, or start. -/
theorem acceptCommand_cases {i : Instr} {u : Bool} {s t : State} (h : acceptCommand i u s = .next t) :
    (s.busy = true ∧ t = s.setOvr) ∨
    (s.busy = false ∧ u = true ∧ s.m = 0#64 ∧ t = s.clearRecord.raiseFault .zeroModulus) ∨
    (s.busy = false ∧ (u = true → s.m ≠ 0#64) ∧ t = s.clearRecord.start i) := by
  unfold acceptCommand at h
  split at h
  · exact .inl ⟨‹_›, (Host.Outcome.next.inj h).symm⟩
  · split at h <;> cases h <;> simp_all

/-- A CMD write of a command word always answers a next state. -/
theorem acceptCommand_next (i : Instr) (u : Bool) (s : State) : ∃ t, acceptCommand i u s = .next t := by
  unfold acceptCommand
  split
  · exact ⟨_, rfl⟩
  · split <;> exact ⟨_, rfl⟩

theorem rejectCommand_busy {s : State} (h : s.busy = true) : rejectCommand s = .next s.setOvr := by
  simp [rejectCommand, h]

theorem rejectCommand_idle {s : State} (h : s.busy = false) :
    rejectCommand s = .next (s.clearRecord.raiseFault .illegalCommand) := by
  simp [rejectCommand, h]

/-- The arm of each command is its acceptance; only ISPRIME does not use the modulus. -/
theorem exec_eq (i : Instr) (s : State) : exec i s = acceptCommand i (decide (i ≠ .isprime)) s := by
  cases i <;> rfl

theorem writeA_busy {s : State} (h : s.busy = true) (v : Word) : writeA v s = s.setOvr := by
  simp [writeA, h]

theorem writeA_idle {s : State} (h : s.busy = false) (v : Word) : writeA v s = { s with a := v } := by
  simp [writeA, h]

theorem writeB_busy {s : State} (h : s.busy = true) (v : Word) : writeB v s = s.setOvr := by
  simp [writeB, h]

theorem writeB_idle {s : State} (h : s.busy = false) (v : Word) : writeB v s = { s with b := v } := by
  simp [writeB, h]

theorem writeM_busy {s : State} (h : s.busy = true) (v : Word) : writeM v s = s.setOvr := by
  simp [writeM, h]

theorem writeM_idle {s : State} (h : s.busy = false) (v : Word) : writeM v s = { s with m := v } := by
  simp [writeM, h]

/-- A HOST write to CMD: a decoded command's own arm, or the rejection of an illegal word. -/
theorem writeCmd_cases (v : Word) (s : State) :
    (∃ i, decode v = .ok i ∧ writeCmd v s = exec i s) ∨
    (∃ e, decode v = .error e ∧ writeCmd v s = rejectCommand s) := by
  unfold writeCmd
  cases h : decode v with
  | ok i => exact .inl ⟨i, rfl, rfl⟩
  | error e => exact .inr ⟨e, rfl, rfl⟩

/-- `result` has a value unless a kernel command has modulus 0. -/
theorem result_isSome {f : Inflight} (h : f.op ≠ .isprime → f.m ≠ 0#64) : ∃ v, result f = some v := by
  obtain ⟨op, a, b, m⟩ := f
  cases op <;>
    simp_all [result, resultModadd, resultModsub, resultModmul, resultModpow, resultIsprime, kernelResult]

/-- Completion with a command and its value. -/
theorem complete_next {s : State} {f : Inflight} {v : Word} (hf : s.inflight = some f)
    (hv : result f = some v) : complete s = .next (s.finish v) := by
  simp [complete, hf, hv]

/-- Everything completion can do where it answers a next state. -/
theorem complete_cases {s t : State} (h : complete s = .next t) :
    ∃ f v, s.inflight = some f ∧ result f = some v ∧ t = s.finish v := by
  unfold complete at h
  split at h
  · cases h
  · rename_i f hf
    split at h
    · cases h
    · rename_i v hv
      exact ⟨f, v, hf, hv, (Host.Outcome.next.inj h).symm⟩

/-- Everything ENGINE's turn can do where it answers a next state. -/
theorem engineTurn_cases {s t : State} (h : engineTurn s = .next t) :
    (s.rst = true ∧ t = s) ∨ (s.rst = false ∧ s.busy = false ∧ t = s) ∨
    (s.rst = false ∧ s.busy = true ∧ ∃ f v, s.inflight = some f ∧ result f = some v ∧ t = s.finish v) := by
  unfold engineTurn at h
  split at h
  · exact .inl ⟨‹_›, (Host.Outcome.next.inj h).symm⟩
  · split at h
    · exact .inr (.inr ⟨by simp_all, ‹_›, complete_cases h⟩)
    · exact .inr (.inl ⟨by simp_all, by simp_all, (Host.Outcome.next.inj h).symm⟩)

end Sys2Proof.Machine
end

