-- ==== Sys2Proof/Laws/PerInstr.lean ====
section
/-! SUPPORT. Facts about every command as syntax, one lemma per constructor. -/

namespace Sys2Proof.Laws.EncodingLegal

/-- The command is well formed and the fields of its word pass both checks of R57 and R59. -/
def Statement (i : Instr) : Prop :=
  i.wellFormed = true ∧ i.fields.rsvdZero = true ∧ i.fields.opAssigned = true

theorem modadd : Statement .modadd := ⟨rfl, rfl, rfl⟩

theorem modsub : Statement .modsub := ⟨rfl, rfl, rfl⟩

theorem modmul : Statement .modmul := ⟨rfl, rfl, rfl⟩

theorem modpow : Statement .modpow := ⟨rfl, rfl, rfl⟩

theorem isprime : Statement .isprime := ⟨rfl, rfl, rfl⟩

end Sys2Proof.Laws.EncodingLegal
end

