-- ==== Sys2Proof/Laws/Step.lean ====
section
/-! SUPPORT. The step and the run: their equations and the inversion lemma that says everything a step
can do. -/

namespace Sys2Proof.Machine

theorem step_nil {s : State} (h : s.pending = []) : step s = engineTurn (s.beginStep []) := by
  simp [step, h]

theorem step_cons {s : State} {e : Event} {es : List Event} (h : s.pending = e :: es) :
    step s = perform e (s.beginStep es) := by
  simp [step, h]

/-- A step performs the next event on the state from which it is taken. -/
theorem step_eq_perform (s : State) : step s = perform s.nextEvent (s.beginStep s.pending.tail) := by
  cases h : s.pending <;> simp [step, State.nextEvent, h, perform]

@[simp] theorem run_zero (s : State) : Sys2Proof.core.run 0 s = .next s := rfl

theorem runsTo_zero {s t : State} : RunsTo 0 s t ↔ t = s :=
  ⟨fun h => (Host.Outcome.next.inj h).symm, fun h => h ▸ rfl⟩

/-- A machine's run of one more step, by the outcome of the first. -/
theorem run_succ_next {M : Host.Core} {s u : M.State} (k : Nat) (h : M.step s = .next u) :
    M.run (k + 1) s = M.run k u := by
  simp [Host.Core.run, h]

/-- A run that ends in a state took a first step that answers a next state. -/
theorem run_succ_inv {M : Host.Core} {s t : M.State} {k : Nat} (h : M.run (k + 1) s = .next t) :
    ∃ u, M.step s = .next u ∧ M.run k u = .next t := by
  unfold Host.Core.run at h
  split at h
  · exact ⟨_, ‹_›, h⟩
  · cases h
  · cases h

/-- A run of one more step is a step and a run from its next state. -/
theorem runsTo_succ {k : Nat} {s t : State} :
    RunsTo (k + 1) s t ↔ ∃ u, step s = .next u ∧ RunsTo k u t :=
  ⟨fun h => run_succ_inv h, fun ⟨u, hu, h⟩ => (run_succ_next (M := Sys2Proof.core) (s := s) (u := u) k hu).trans h⟩

/-- Everything a HOST write can do where it answers a next state. -/
theorem regWrite_cases {idx : BitVec 3} {v : Word} {s t : State} (h : regWrite idx v s = .next t) :
    (idx = 0#3 ∧ t = writeA v s) ∨ (idx = 1#3 ∧ t = writeB v s) ∨ (idx = 2#3 ∧ t = writeM v s) ∨
    (idx = 3#3 ∧ writeCmd v s = .next t) ∨ (idx = 5#3 ∧ t = s.writeStatus v) ∨
    ((idx = 4#3 ∨ idx = 6#3 ∨ idx = 7#3) ∧ t = s) := by
  have hidx : idx = 0#3 ∨ idx = 1#3 ∨ idx = 2#3 ∨ idx = 3#3 ∨ idx = 4#3 ∨ idx = 5#3 ∨ idx = 6#3 ∨
      idx = 7#3 := by
    clear h
    revert idx
    decide
  rcases hidx with rfl | rfl | rfl | rfl | rfl | rfl | rfl | rfl <;>
    simp_all [regWrite, Slot.ofIndex, writeSlot]

/-- What performing an event on `s` can do, one constructor per effect: the relation `perform_inv`
inverts a performed event into. -/
inductive Performs (s : State) : Event → State → Prop where
  | drive (l : Bool) : Performs s (.rst l) (driveReset l s)
  | held (e : Event) (he : e.isReset = false) (hr : s.rst = true) : Performs s e s
  | read (i : BitVec 3) (w : Word) (hr : s.rst = false) : Performs s (.host ⟨false, i, w⟩) (hostRead i s)
  | discard (i : BitVec 3) (v : Word) (hr : s.rst = false) (hb : s.busy = true) (hi : i.toNat ≤ 3) :
      Performs s (.host ⟨true, i, v⟩) s.setOvr
  | setA (v : Word) (hr : s.rst = false) (hb : s.busy = false) :
      Performs s (.host ⟨true, 0#3, v⟩) { s with a := v }
  | setB (v : Word) (hr : s.rst = false) (hb : s.busy = false) :
      Performs s (.host ⟨true, 1#3, v⟩) { s with b := v }
  | setM (v : Word) (hr : s.rst = false) (hb : s.busy = false) :
      Performs s (.host ⟨true, 2#3, v⟩) { s with m := v }
  | illegal (v : Word) (r : Illegal) (hr : s.rst = false) (hb : s.busy = false)
      (hd : decode v = .error r) :
      Performs s (.host ⟨true, 3#3, v⟩) (s.clearRecord.raiseFault .illegalCommand)
  | zeroModulus (v : Word) (i : Instr) (hr : s.rst = false) (hb : s.busy = false)
      (hd : decode v = .ok i) (hk : i.isKernel = true) (hm : s.m = 0#64) :
      Performs s (.host ⟨true, 3#3, v⟩) (s.clearRecord.raiseFault .zeroModulus)
  | start (v : Word) (i : Instr) (hr : s.rst = false) (hb : s.busy = false)
      (hd : decode v = .ok i) (hm : i.isKernel = true → s.m ≠ 0#64) :
      Performs s (.host ⟨true, 3#3, v⟩) (s.clearRecord.start i)
  | status (v : Word) (hr : s.rst = false) : Performs s (.host ⟨true, 5#3, v⟩) (s.writeStatus v)
  | ignored (i : BitVec 3) (v : Word) (hr : s.rst = false) (hi : i = 4#3 ∨ i = 6#3 ∨ i = 7#3) :
      Performs s (.host ⟨true, i, v⟩) s
  | idle (hr : s.rst = false) (hb : s.busy = false) : Performs s .engine s
  | completion (f : Inflight) (v : Word) (hr : s.rst = false) (hb : s.busy = true)
      (hf : s.inflight = some f) (hv : result f = some v) : Performs s .engine (s.finish v)

/-- The commands that use the modulus are the kernel commands. -/
theorem usesModulus_eq_isKernel (i : Instr) : decide (i ≠ .isprime) = i.isKernel := by
  cases i <;> rfl

/-- Everything an event can do where it answers a next state. -/
theorem perform_cases {e : Event} {s t : State} (h : perform e s = .next t) :
    (∃ l, e = .rst l ∧ t = driveReset l s) ∨
    (e.isReset = false ∧ s.rst = true ∧ t = s) ∨
    (s.rst = false ∧ ∃ i w, e = .host ⟨false, i, w⟩ ∧ t = hostRead i s) ∨
    (s.rst = false ∧ ∃ i v, e = .host ⟨true, i, v⟩ ∧ regWrite i v s = .next t) ∨
    (s.rst = false ∧ e = .engine ∧ s.busy = false ∧ t = s) ∨
    (s.rst = false ∧ e = .engine ∧ s.busy = true ∧
      ∃ f v, s.inflight = some f ∧ result f = some v ∧ t = s.finish v) := by
  cases e with
  | rst l => exact .inl ⟨l, rfl, (Host.Outcome.next.inj h).symm⟩
  | engine =>
    rcases engineTurn_cases h with ⟨hr, rfl⟩ | ⟨hr, hb, rfl⟩ | ⟨hr, hb, hc⟩
    · exact .inr (.inl ⟨rfl, hr, rfl⟩)
    · exact .inr (.inr (.inr (.inr (.inl ⟨hr, rfl, hb, rfl⟩))))
    · exact .inr (.inr (.inr (.inr (.inr ⟨hr, rfl, hb, hc⟩))))
  | host x =>
    obtain ⟨we, i, w⟩ := x
    cases hr : s.rst with
    | true =>
      have : t = s := by simpa [perform, hostAccess, hr, eq_comm] using h
      exact .inr (.inl ⟨rfl, rfl, this⟩)
    | false =>
      cases we with
      | false =>
        have : t = hostRead i s := by simpa [perform, hostAccess, hr, eq_comm] using h
        exact .inr (.inr (.inl ⟨rfl, i, w, rfl, this⟩))
      | true =>
        have : regWrite i w s = .next t := by simpa [perform, hostAccess, hr] using h
        exact .inr (.inr (.inr (.inl ⟨rfl, i, w, rfl, this⟩)))

/-- Everything a HOST write can do where it answers a next state, as an effect. -/
theorem performs_of_regWrite {i : BitVec 3} {v : Word} {s t : State} (hr : s.rst = false)
    (h : regWrite i v s = .next t) : Performs s (.host ⟨true, i, v⟩) t := by
  rcases regWrite_cases h with ⟨rfl, ht⟩ | ⟨rfl, ht⟩ | ⟨rfl, ht⟩ | ⟨rfl, ht⟩ | ⟨rfl, ht⟩ | ⟨hi, ht⟩
  · subst ht
    cases hb : s.busy with
    | true => rw [writeA_busy hb]; exact .discard _ _ hr hb (by decide)
    | false => rw [writeA_idle hb]; exact .setA _ hr hb
  · subst ht
    cases hb : s.busy with
    | true => rw [writeB_busy hb]; exact .discard _ _ hr hb (by decide)
    | false => rw [writeB_idle hb]; exact .setB _ hr hb
  · subst ht
    cases hb : s.busy with
    | true => rw [writeM_busy hb]; exact .discard _ _ hr hb (by decide)
    | false => rw [writeM_idle hb]; exact .setM _ hr hb
  · rcases writeCmd_cases v s with ⟨i, hd, hw⟩ | ⟨r, hd, hw⟩
    · rw [hw, exec_eq, usesModulus_eq_isKernel] at ht
      rcases acceptCommand_cases ht with ⟨hb, rfl⟩ | ⟨hb, hk, hm, rfl⟩ | ⟨hb, hm, rfl⟩
      · exact .discard _ _ hr hb (by decide)
      · exact .zeroModulus _ i hr hb hd hk hm
      · exact .start _ i hr hb hd hm
    · cases hb : s.busy with
      | true =>
        rw [hw, rejectCommand_busy hb] at ht
        cases ht
        exact .discard _ _ hr hb (by decide)
      | false =>
        rw [hw, rejectCommand_idle hb] at ht
        cases ht
        exact .illegal _ r hr hb hd
  · subst ht; exact .status _ hr
  · subst ht; exact .ignored _ _ hr hi

/-- A performed event has one of the effects of `Performs`. -/
theorem perform_inv {e : Event} {s t : State} (h : perform e s = .next t) : Performs s e t := by
  rcases perform_cases h with ⟨l, rfl, rfl⟩ | ⟨he, hr, rfl⟩ | ⟨hr, i, w, rfl, rfl⟩ | ⟨hr, i, v, rfl, hw⟩ |
    ⟨hr, rfl, hb, rfl⟩ | ⟨hr, rfl, hb, f, v, hf, hv, rfl⟩
  · exact .drive l
  · exact .held _ he hr
  · exact .read _ _ hr
  · exact performs_of_regWrite hr hw
  · exact .idle hr hb
  · exact .completion _ _ hr hb hf hv

/-- Says once what a step can do: it performs the next event on the state from which that event is taken,
with one of the effects of `Performs`. -/
theorem step_inv {s t : State} (h : step s = .next t) :
    Performs (s.beginStep s.pending.tail) s.nextEvent t :=
  perform_inv ((step_eq_perform s).symm.trans h)

end Sys2Proof.Machine
end

