-- ==== Sys2Proof/Machine/Asm.lean ====
section
/-! DEFINITION. The host notation of spec/30_encoding.md R65 and R66: each form as the HOST accesses it
stands for.  Host registers, labels and branches are the host's own (R65); of the `wait` loop what
reaches the block is its polls (log entry 13). -/

namespace Sys2Proof.Machine.Asm

/-- `wr R, imm` (R65). -/
def wr (r : Slot) (imm : Word) : Transaction := { we := true, idx := r.index, wdata := imm }

/-- `rd R` (R65). -/
def rd (r : Slot) : Transaction := { we := false, idx := r.index, wdata := 0#64 }

/-- `cmd MNEMONIC`, exactly `wr CMD, OP` (R65). -/
def cmd (i : Instr) : Transaction := wr .cmd (encode i)

/-- `clrovr`, `wr STATUS, 0x100` (R66). -/
def clrovr : Transaction := wr .status 0x100#64

/-- The polls of a `wait` whose loop runs the given number of times (R66). -/
def wait (polls : Nat) : List Transaction := List.replicate polls (rd .status)

/-- `MODADD rd, a, b, m`, and MODSUB, MODMUL and MODPOW the same way, with the `wait` polling the given
number of times (R66). -/
def kernelCall (i : Instr) (a b m : Word) (polls : Nat) : List Transaction :=
  [wr .a a, wr .b b, wr .m m, cmd i] ++ wait polls ++ [rd .res]

/-- `ISPRIME rd, n`, with the `wait` polling the given number of times (R66). -/
def isprimeCall (n : Word) (polls : Nat) : List Transaction :=
  [wr .a n, cmd .isprime] ++ wait polls ++ [rd .res]

/-- One turn of the host's `wait` loop ends when bit 0 of the polled STATUS is 0 (R66). -/
def waitEnds (status : Word) : Bool := !status.getLsbD 0

end Sys2Proof.Machine.Asm
end

