-- ==== Sys2Proof/Tests/Slice0.lean ====
section
/-! SUPPORT. The model's own tests.  Expected results are the worked vectors of spec/95_test_vectors.md
(named in each comment) or are calculated by hand from the rule named.  The second half shows, for every
statement of Certificates/Slice0/Obligations.lean that has hypotheses, a state that meets them. -/

namespace Sys2Proof.Tests

open Sys2Proof Sys2Proof.Machine

/-- The outcome is a next state that satisfies `p`. -/
def nextIs (o : Host.Outcome State Fault Refusal) (p : State → Bool) : Bool :=
  match o with
  | .next t => p t
  | .fault _ => false
  | .refused _ => false

/-- The idle state with the given operand registers. -/
def idle (a b m : Word) : State := { State.reset with a := a, b := b, m := m }

/-- The state in which command `i` has been accepted on the given operands. -/
def running (i : Instr) (a b m : Word) : State :=
  { idle a b m with busy := true, inflight := some ⟨i, a, b, m⟩ }

/-- `s` with HOST writing `v` to slot `idx` in the next step. -/
def writing (s : State) (idx : BitVec 3) (v : Word) : State :=
  { s with pending := [.host ⟨true, idx, v⟩] }

/-- `p = 2^64 - 59` of spec/95_test_vectors.md. -/
def p : Word := 0xFFFFFFFFFFFFFFC5#64

/-! ### Well-formed command words (R57, R59) -/

theorem test_wellFormed_refuses_op5 : CmdFields.wellFormed ⟨5#3, 0#61⟩ = false := by decide
theorem test_wellFormed_refuses_op7 : CmdFields.wellFormed ⟨7#3, 0#61⟩ = false := by decide
theorem test_wellFormed_refuses_rsvd_low : CmdFields.wellFormed ⟨0#3, 1#61⟩ = false := by decide
theorem test_wellFormed_refuses_rsvd_high :
    CmdFields.wellFormed ⟨1#3, 0x1000000000000000#61⟩ = false := by decide
theorem test_wellFormed_accepts_op4 : CmdFields.wellFormed ⟨4#3, 0#61⟩ = true := by decide
theorem test_opAssigned_refuses_op5 : CmdFields.opAssigned ⟨5#3, 0#61⟩ = false := by decide
theorem test_rsvdZero_refuses_bit63 : CmdFields.rsvdZero (CmdFields.ofWord 0x8000000000000001#64) = false := by
  decide

/-! ### Decoding: words written out from the table of R57 -/

theorem test_decode_modadd :
    decode 0b0000000000000000000000000000000000000000000000000000000000000000#64 = .ok .modadd := by decide
theorem test_decode_modsub :
    decode 0b0000000000000000000000000000000000000000000000000000000000000001#64 = .ok .modsub := by decide
theorem test_decode_modmul :
    decode 0b0000000000000000000000000000000000000000000000000000000000000010#64 = .ok .modmul := by decide
theorem test_decode_modpow :
    decode 0b0000000000000000000000000000000000000000000000000000000000000011#64 = .ok .modpow := by decide
theorem test_decode_isprime :
    decode 0b0000000000000000000000000000000000000000000000000000000000000100#64 = .ok .isprime := by decide
theorem test_decode_refuses_op6 : decode 0x6#64 = .error .opReserved := by decide
theorem test_decode_refuses_bit3 : decode 0x8#64 = .error .reservedBitsSet := by decide
theorem test_decodeTableWord_modpow : decodeTableWord 64 3 = some .modpow := by decide
theorem test_decodeTableWord_refuses_op5 : decodeTableWord 64 5 = none := by decide

/-- The disassembly vectors of spec/95_test_vectors.md section 4. -/
theorem test_disassemble_isprime : disassemble 0x4#64 = "ISPRIME" := by decide
theorem test_disassemble_illegal :
    disassemble 0x8000000000000001#64 = ".illegal 0x8000000000000001" := by decide

/-! ### The commands -/

/-- ADD-6 and ADD-11. -/
theorem test_modadd_top_of_range :
    nextIs (complete (running .modadd 0xFFFFFFFFFFFFFFFE 0xFFFFFFFFFFFFFFFD 0xFFFFFFFFFFFFFFFF))
      (fun t => t.res == 0xFFFFFFFFFFFFFFFC#64 && t.done && !t.busy) = true := by decide
theorem test_modadd_slow_path :
    nextIs (complete (running .modadd 0xFFFFFFFFFFFFFFFF 0xFFFFFFFFFFFFFFFF p))
      (fun t => t.res == 116#64) = true := by decide

/-- SUB-2 and SUB-5, the reading of D14. -/
theorem test_modsub_borrows :
    nextIs (complete (running .modsub 3 5 7)) (fun t => t.res == 5#64 && t.done && !t.busy) = true := by decide
theorem test_modsub_reduces_first :
    nextIs (complete (running .modsub 0 5 3)) (fun t => t.res == 1#64) = true := by decide

/-- MUL-2 and MUL-10. -/
theorem test_modmul_worked_example :
    nextIs (complete (running .modmul 7 13 10)) (fun t => t.res == 1#64 && t.done && !t.busy) = true := by decide
theorem test_modmul_wide_product :
    nextIs (complete (running .modmul 0xFFFFFFFFFFFFFFFF 0xFFFFFFFFFFFFFFFF p))
      (fun t => t.res == 3364#64) = true := by decide +kernel

/-- POW-2 and POW-4. -/
theorem test_modpow_worked_example :
    nextIs (complete (running .modpow 4 13 497)) (fun t => t.res == 445#64 && t.done && !t.busy) = true := by
  decide +kernel
theorem test_modpow_zero_exponent_modulus_one :
    nextIs (complete (running .modpow 9 0 1)) (fun t => t.res == 1#64) = true := by decide

/-- `n = 561` and `n = 37` of section 3, with B and M zero. -/
theorem test_isprime_carmichael :
    nextIs (complete (running .isprime 561 0 0)) (fun t => t.res == 0#64 && t.done && !t.busy) = true := by
  decide +kernel
theorem test_isprime_skips_base_37 :
    nextIs (complete (running .isprime 37 0 0)) (fun t => t.res == 1#64) = true := by decide +kernel

/-- Section 3.1: 2047 is a strong pseudoprime to base 2, and base 3 is the witness. -/
theorem test_isPrime_witness_three : isPrime 2047 = .composite := by decide +kernel
theorem test_decompose_561 : decompose 561 = (4, 35) := by decide

/-! ### Acceptance, faults and register access -/

/-- Vectors 4.5 and 4.11: the very first steps after reset. -/
theorem test_modadd_after_reset_faults :
    nextIs (step (State.reset.withFetchWord 64 0)) (fun t => t.statusWord == 0x26#64 && t.res == 0#64) = true := by
  decide
theorem test_isprime_after_reset_starts :
    nextIs (step (State.reset.withFetchWord 64 4)) (fun t => t.statusWord == 0x1#64) = true := by decide

/-- Vectors 4.7 and 4.9: an illegal word, with M nonzero and with M zero. -/
theorem test_bit3_is_illegal :
    nextIs (step (writing (idle 0 0 7) 3#3 0x8#64)) (fun t => t.statusWord == 0x16#64 && t.m == 7#64) = true := by
  decide
theorem test_illegal_before_zero_modulus :
    nextIs (step (writing State.reset 3#3 0x7#64)) (fun t => t.statusWord == 0x16#64) = true := by decide

/-- Vector 4.12: a write to A and a CMD write while busy are discarded. -/
theorem test_write_while_busy_is_discarded :
    nextIs (step (writing (running .modadd 3 4 5) 0#3 9#64))
      (fun t => t.statusWord == 0x101#64 && t.a == 3#64) = true := by decide
theorem test_cmd_while_busy_is_discarded :
    nextIs (step (writing (running .modadd 3 4 5) 3#3 0x2#64))
      (fun t => t.statusWord == 0x101#64 && t.inflight == some ⟨.modadd, 3, 4, 5⟩) = true := by decide

/-- Vectors 4.3, 4.4, 4.13 and 4.19. -/
theorem test_res_is_read_only :
    nextIs (step (writing State.reset 4#3 7#64)) (fun t => t == State.reset) = true := by decide
theorem test_status_low_bits_are_ignored :
    nextIs (step (writing State.reset 5#3 0xFF#64)) (fun t => t == State.reset) = true := by decide
theorem test_status_bit8_clears_ovr :
    nextIs (step (writing { State.reset with done := true, ovr := true } 5#3 0x100#64))
      (fun t => t.statusWord == 0x2#64) = true := by decide
theorem test_cmd_reads_zero : (running .modpow 1 2 3).regRead 3#3 = 0#64 := by decide

/-- Vector 4.18: reset abandons the command in flight. -/
theorem test_reset_abandons :
    nextIs (step { running .modpow 2 10 1000 with pending := [.rst true, .engine] })
      (fun t => t == { State.reset with rst := true, pending := [.engine] }) = true := by decide

/-- R56: the record of a write of 1 to slot 3, `{1, 011, 0...01}`. -/
theorem test_transaction_record :
    Transaction.toRecord ⟨true, 3#3, 1#64⟩ = 0xB0000000000000001#68 := by decide

/-- R66: program P4's first four accesses. -/
theorem test_isprimeCall_expansion :
    Asm.isprimeCall 561 1 =
      [⟨true, 0, 561⟩, ⟨true, 3, 4⟩, ⟨false, 5, 0⟩, ⟨false, 4, 0⟩] := by decide

/-! ### Witnesses: the hypotheses of each statement are met together -/

/-- `s` with HOST reading slot `idx` in the next step. -/
def reading (s : State) (idx : BitVec 3) : State := { s with pending := [.host ⟨false, idx, 0#64⟩] }

theorem statusInv_reset : State.reset.StatusInv :=
  ⟨by decide, by decide, by decide, by decide⟩

theorem statusInv_running : (running .modadd 3 4 5).StatusInv :=
  ⟨by decide, by decide, by decide, by decide⟩

/-- A busy, well-formed state. -/
theorem inv_running : (running .modadd 3 4 5).Inv :=
  ⟨statusInv_running, fun _ => ⟨⟨.modadd, 3, 4, 5⟩, rfl, fun _ => by decide⟩, fun h => by cases h⟩

theorem witness_DisassemblerPrintsMnemonicOrHex : decode 0x5#64 = .error .opReserved := by decide

theorem witness_StepRunsTheDecodedCommand :
    (writing (idle 3 4 5) 3#3 0#64).rst = false ∧
    (writing (idle 3 4 5) 3#3 0#64).pending = .host ⟨true, 3#3, 0#64⟩ :: [] ∧
    decode 0#64 = .ok .modadd ∧ decodeTableWord 64 4 = some .isprime ∧
    (running .modadd 3 4 5).rst = false ∧ (running .modadd 3 4 5).busy = true ∧
    (running .modadd 3 4 5).nextEvent = .engine := by decide

theorem witness_HostReadAnswersTheSlot :
    (reading (idle 3 4 5) 0#3).rst = false ∧
    (reading (idle 3 4 5) 0#3).pending = .host ⟨false, 0#3, 0#64⟩ :: [] ∧
    (reading (idle 3 4 5) 7#3).pending = .host ⟨false, 7#3, 0#64⟩ :: [] := by decide

theorem witness_HostWriteChangesTheSlot :
    (writing (idle 3 4 5) 2#3 9#64).rst = false ∧ (writing (idle 3 4 5) 2#3 9#64).busy = false ∧
    (2#3 : BitVec 3).toNat ≤ 2 ∧
    (writing (idle 3 4 5) 2#3 9#64).pending = .host ⟨true, 2#3, 9#64⟩ :: [] ∧
    (∃ t, step (writing (idle 3 4 5) 2#3 9#64) = .next t) ∧
    (∃ t u, step (writing (idle 3 4 5) 2#3 9#64) = .next t ∧ exec .modadd t = .next u ∧ u.busy = true) :=
  ⟨rfl, rfl, by decide, rfl, ⟨_, rfl⟩, ⟨_, _, rfl, rfl, rfl⟩⟩

theorem witness_RepeatedAccessesAreIdempotentButForCmd :
    (∃ t, hostAccess ⟨false, 7#3, 0#64⟩ (idle 3 4 5) = .next t) ∧
    (∃ t, hostAccess ⟨true, 2#3, 9#64⟩ (idle 3 4 5) = .next t ∧ (2#3 : BitVec 3).toNat ≤ 2) ∧
    (∃ t, hostAccess ⟨true, 5#3, 0x100#64⟩ (idle 3 4 5) = .next t ∧ (0x100#64 : Word).getLsbD 8 = true) ∧
    (∃ t, hostAccess ⟨true, 3#3, 0#64⟩ (running .modadd 3 4 5) = .next t ∧
      (running .modadd 3 4 5).busy = true ∧ (3#3 : BitVec 3).toNat ≤ 3) ∧
    (∃ t, hostAccess (cmdWrite (encode .modadd)) (idle 3 4 5) = .next t ∧ (idle 3 4 5).rst = false ∧
      (idle 3 4 5).busy = false ∧ (idle 3 4 5).m ≠ 0#64) :=
  ⟨⟨_, rfl⟩, ⟨_, rfl, by decide⟩, ⟨_, rfl, by decide⟩, ⟨_, rfl, rfl, by decide⟩,
    ⟨_, rfl, rfl, rfl, by decide⟩⟩

theorem witness_StatusReservedBitsAndInvariants :
    9 ≤ 63 ∧ (writing (idle 3 4 5) 5#3 0x100#64).rst = false ∧
    (writing (idle 3 4 5) 5#3 0x100#64).pending = .host ⟨true, 5#3, 0x100#64⟩ :: [] ∧
    (running .modadd 3 4 5).StatusInv ∧ ∃ t, step (running .modadd 3 4 5) = .next t :=
  ⟨by decide, rfl, rfl, statusInv_running, _, rfl⟩

/-- A discarded write at the boundary slot 3, a STATUS write, ENGINE's turn and a reset. -/
theorem witness_OverrunIsSticky :
    (∃ t, step (writing (running .modadd 3 4 5) 3#3 0#64) = .next t ∧ t.ovr = true) ∧
    (∃ t, step (writing { idle 3 4 5 with ovr := true } 5#3 0x100#64) = .next t ∧ t.ovr = false) ∧
    (∃ t, step { running .modadd 3 4 5 with ovr := true } = .next t ∧ t.ovr = true) ∧
    (∃ t, step { idle 3 4 5 with ovr := true, pending := [.rst true] } = .next t ∧ t.ovr = false) ∧
    (∃ t, step (writing { State.reset with rst := true } 3#3 0#64) = .next t ∧ t.ovr = false) :=
  ⟨⟨_, rfl, rfl⟩, ⟨_, rfl, rfl⟩, ⟨_, rfl, rfl⟩, ⟨_, rfl, rfl⟩, ⟨_, rfl, rfl⟩⟩

theorem witness_BusyRisesByAcceptanceFallsByCompletion :
    (∃ t, step (writing (idle 3 4 5) 3#3 0#64) = .next t ∧ (idle 3 4 5).busy = false ∧ t.busy = true) ∧
    (∃ t, step (running .modadd 3 4 5) = .next t ∧ (running .modadd 3 4 5).busy = true ∧ t.busy = false) :=
  ⟨⟨_, rfl, rfl, rfl⟩, ⟨_, rfl, rfl, rfl⟩⟩

theorem witness_DoneOutputFollowsStatus :
    (∃ t, step (running .modadd 3 4 5) = .next t ∧ (running .modadd 3 4 5).doneO = false ∧ t.doneO = true) ∧
    (∃ t, step (writing State.reset 3#3 5#64) = .next t ∧ State.reset.doneO = false ∧ t.doneO = true) ∧
    (∃ t, step (writing { idle 3 4 5 with done := true } 3#3 0#64) = .next t ∧ t.doneO = false) :=
  ⟨⟨_, rfl, rfl, rfl⟩, ⟨_, rfl, rfl, rfl⟩, ⟨_, rfl, rfl⟩⟩

theorem witness_CmdWriteChecksInPriorityOrder :
    (writing (idle 3 4 5) 3#3 4#64).rst = false ∧
    (writing (idle 3 4 5) 3#3 4#64).pending = .host ⟨true, 3#3, 4#64⟩ :: [] ∧
    (∃ t, (writing State.reset 3#3 5#64).StatusInv ∧ step (writing State.reset 3#3 5#64) = .next t ∧
      t.fault = true) ∧
    (∃ t, (idle 3 4 5).nextEvent = .engine ∧ step (idle 3 4 5) = .next t ∧ (idle 3 4 5).busy = false) :=
  ⟨rfl, rfl, ⟨_, ⟨by decide, by decide, by decide, by decide⟩, rfl, rfl⟩, ⟨_, rfl, rfl, rfl⟩⟩

/-- Each of the four ways to be illegal. -/
theorem witness_IllegalCommandWordFaults :
    (writing State.reset 3#3 5#64).rst = false ∧ (writing State.reset 3#3 5#64).busy = false ∧
    (writing State.reset 3#3 5#64).pending = .host ⟨true, 3#3, 5#64⟩ :: [] ∧
    (0x8#64 : Word).extractLsb' 3 61 ≠ 0#61 ∧ (5#64 : Word).extractLsb' 0 3 = 5#3 ∧
    (6#64 : Word).extractLsb' 0 3 = 6#3 ∧ (7#64 : Word).extractLsb' 0 3 = 7#3 := by decide

theorem witness_ZeroModulusFaultsKernelCommands :
    Instr.isKernel .modpow = true ∧ (idle 9 0 0).busy = false ∧ (idle 9 0 0).m = 0#64 ∧
    ∃ t, exec .isprime (idle 9 0 0) = .next t ∧ (idle 9 0 0).cause ≠ .zeroModulus :=
  ⟨rfl, rfl, rfl, _, rfl, by decide⟩

/-- A state with a fault record. -/
def faulted : State := { idle 3 4 0 with done := true, fault := true, cause := .zeroModulus }

theorem statusInv_faulted : faulted.StatusInv := ⟨by decide, by decide, by decide, by decide⟩

theorem witness_FaultRecordStaysUntilNextAcceptance :
    (faulted.StatusInv ∧ faulted.fault = true ∧ (∃ t, step faulted = .next t) ∧
      faulted.nextEvent.isCmdWrite = false ∧ faulted.nextEvent ≠ .rst true) ∧
    ((writing faulted 3#3 4#64).StatusInv ∧ (writing faulted 3#3 4#64).fault = true ∧
      (writing faulted 3#3 4#64).rst = false ∧ (writing faulted 3#3 4#64).nextEvent.writes 3#3 = some 4#64 ∧
      (∃ t, step (writing faulted 3#3 4#64) = .next t ∧ t.busy = true) ∧
      (∃ t, step (writing faulted 3#3 8#64) = .next t ∧ t.cause = .illegalCommand)) ∧
    (∃ t, ({ faulted with pending := [.rst true] } : State).nextEvent = .rst true ∧
      step { faulted with pending := [.rst true] } = .next t) :=
  ⟨⟨statusInv_faulted, rfl, ⟨_, rfl⟩, rfl, by decide⟩,
    ⟨⟨by decide, by decide, by decide, by decide⟩, rfl, rfl, rfl, ⟨_, rfl, rfl⟩, ⟨_, rfl, rfl⟩⟩,
    ⟨_, rfl, rfl⟩⟩

/-- The completion statements of the four kernel commands. -/
theorem witness_kernel_commands_complete :
    (idle 0xFFFFFFFFFFFFFFFF 0xFFFFFFFFFFFFFFFF p).busy = false ∧
    (idle 0xFFFFFFFFFFFFFFFF 0xFFFFFFFFFFFFFFFF p).m ≠ 0#64 ∧ (idle 9 0 1).busy = false ∧
    (idle 9 0 1).m ≠ 0#64 := by decide

/-- The operand ranges of the kernel's closed forms and laws, at both ends, and a slow-path operand. -/
theorem witness_kernel_operand_ranges :
    ((0 : Nat) < 2 ^ 64 ∧ (0 : Nat) < 1 ∧ (1 : Nat) < 2 ^ 64) ∧
    ((2 ^ 64 - 1 : Nat) < 2 ^ 64 ∧ (0 : Nat) < 2 ^ 64 - 1) ∧
    ¬((2 ^ 64 - 1 : Nat) < 7 ∧ (5 : Nat) < 7) ∧ ¬((5 : Nat) = 0 ∧ (1 : Nat) = 1) := by decide

theorem witness_IsprimeCompletesWithTheVerdict : (idle 561 0 0).busy = false := by decide

theorem witness_SmallAndEvenNumbersAreDecidedAtOnce :
    ((4 : Nat) % 2 = 0 ∧ (4 : Nat) ≠ 2) ∧ ((0 : Nat) % 2 = 0 ∧ (0 : Nat) ≠ 2) ∧
    (¬((5 : Nat) = 2 ∨ (5 : Nat) = 3) ∧ ¬((5 : Nat) = 1 ∨ (5 : Nat) % 2 = 0)) := by decide

theorem witness_DecompositionIsExact :
    ((5 : Nat) < 2 ^ 64 ∧ 5 ≤ 5 ∧ 5 % 2 = 1) ∧
    ((2 ^ 64 - 1 : Nat) < 2 ^ 64 ∧ 5 ≤ (2 ^ 64 - 1 : Nat) ∧ (2 ^ 64 - 1 : Nat) % 2 = 1) := by decide

/-- `n = 17 = 2^4 * 1 + 1` with a base that is skipped and one that is not. -/
theorem witness_WitnessLoopChecksTheSquareRoots :
    (17 : Nat) < 2 ^ 64 ∧ 5 ≤ 17 ∧ 17 % 2 = 1 ∧ 1 % 2 = 1 ∧ 17 - 1 = 2 ^ 4 * 1 ∧ (17 : Nat) < 2 ^ 64 ∧
    17 - 1 ≤ 17 ∧ 13 < 17 - 1 ∧ 3 < 4 := by decide

theorem witness_PrimesAreNeverDeclaredComposite :
    (17 : Nat) < 2 ^ 64 ∧ Nat.Prime 17 ∧ (idle 17 0 0).busy = false ∧ (idle 17 0 0).a.toNat.Prime :=
  ⟨by decide, by decide, rfl, by decide⟩

theorem witness_BaseOrderDoesNotChangeTheResult :
    ¬((5 : Nat) = 2 ∨ (5 : Nat) = 3) ∧ ¬((5 : Nat) = 1 ∨ (5 : Nat) % 2 = 0) ∧ bases.reverse.Perm bases := by
  decide

theorem witness_ResetPutsEverythingAtItsResetValue :
    ({ running .modadd 3 4 5 with pending := [.rst true] } : State).pending = .rst true :: [] ∧
    ({ State.reset with rst := true } : State).rst = true ∧
    ({ State.reset with rst := true } : State).nextEvent.isReset = false ∧
    ({ State.reset with rst := true, pending := [.rst false] } : State).pending = .rst false :: [] := by
  decide

theorem witness_ResetAbandonsAndNothingElseCancels :
    (∃ s t : State, s.busy = true ∧ s.pending = .rst true :: [.rst false, .engine] ∧
      (∀ e ∈ [Event.rst false, Event.engine], e.isCmdWrite = false) ∧ RunsTo 3 s t) ∧
    (∃ t, (running .modadd 3 4 5).busy = true ∧ (running .modadd 3 4 5).nextEvent ≠ .rst true ∧
      step (running .modadd 3 4 5) = .next t) :=
  ⟨⟨{ running .modadd 3 4 5 with pending := [.rst true, .rst false, .engine] }, _, rfl, rfl, by decide, rfl⟩,
    ⟨_, rfl, by decide, rfl⟩⟩

theorem witness_OnlyHostWritesTheOperandRegisters :
    (∃ t, (writing (idle 3 4 5) 2#3 9#64).rst = false ∧ step (writing (idle 3 4 5) 2#3 9#64) = .next t ∧
      t.m = 9#64) ∧
    (∃ t, step (writing (running .modadd 3 4 5) 2#3 9#64) = .next t ∧ t.m = 5#64) :=
  ⟨⟨_, rfl, rfl, rfl⟩, ⟨_, rfl, rfl⟩⟩

theorem witness_OnlyCompletionWritesTheResult :
    (∃ t, step (running .modadd 3 4 5) = .next t) ∧ (∃ t, step (writing (idle 3 4 5) 4#3 9#64) = .next t) :=
  ⟨⟨_, rfl⟩, ⟨_, rfl⟩⟩

theorem witness_StepKeepsTheInvariantAndNeverStops : (running .modadd 3 4 5).Inv := inv_running

/-- A command in flight with a discarded write, ENGINE's turn, a read, and a reset after all of them. -/
def runningWithHost : State :=
  { running .modadd 3 4 5 with
    pending := [.host ⟨true, 0#3, 9#64⟩, .engine, .host ⟨false, 4#3, 0#64⟩, .rst true] }

theorem inv_runningWithHost : runningWithHost.Inv :=
  ⟨⟨by decide, by decide, by decide, by decide⟩,
    fun _ => ⟨⟨.modadd, 3, 4, 5⟩, rfl, fun _ => by decide⟩, fun h => by cases h⟩

theorem witness_AcceptedCommandIsUnaffectedByHost :
    runningWithHost.Inv ∧ runningWithHost.busy = true ∧
    runningWithHost.inflight = some ⟨.modadd, 3, 4, 5⟩ ∧
    (∀ e ∈ runningWithHost.pending.take 3, e ≠ .rst true) ∧ ∃ t, RunsTo 3 runningWithHost t :=
  ⟨inv_runningWithHost, rfl, rfl, by decide, _, rfl⟩

/-- A reset that comes after the completion is allowed, and so is a schedule without ENGINE's turn. -/
theorem witness_AcceptedCommandCompletes :
    (runningWithHost.Inv ∧ runningWithHost.busy = true ∧
      runningWithHost.inflight = some ⟨.modadd, 3, 4, 5⟩ ∧
      (∀ e ∈ runningWithHost.pending.takeWhile (fun e => decide (e ≠ .engine)), e ≠ .rst true) ∧
      .rst true ∈ runningWithHost.pending ∧ ∃ t, RunsTo 1 runningWithHost t) ∧
    ((running .modadd 3 4 5).Inv ∧ (running .modadd 3 4 5).busy = true ∧
      (∀ e ∈ (running .modadd 3 4 5).pending.takeWhile (fun e => decide (e ≠ .engine)), e ≠ .rst true)) :=
  ⟨⟨inv_runningWithHost, rfl, rfl, by decide, by decide, _, rfl⟩, inv_running, rfl, by decide⟩

theorem witness_ResultStaysReadableUntilTheNextCommand :
    (∃ t, runningWithHost.Inv ∧ runningWithHost.busy = true ∧
      runningWithHost.inflight = some ⟨.modadd, 3, 4, 5⟩ ∧ result ⟨.modadd, 3, 4, 5⟩ = some 2#64 ∧
      (∀ e ∈ runningWithHost.pending.take 3, e ≠ .rst true) ∧
      (∀ (j : Nat) (u : State), j < 3 → RunsTo j runningWithHost u → u.busy = false →
        u.nextEvent.isCmdWrite = false) ∧
      RunsTo 3 runningWithHost t ∧ t.busy = false) ∧
    (∃ t, (writing State.reset 3#3 5#64).rst = false ∧ (writing State.reset 3#3 5#64).busy = false ∧
      (writing State.reset 3#3 5#64).nextEvent.isCmdWrite = true ∧
      step (writing State.reset 3#3 5#64) = .next t ∧ t.busy = false) := by
  refine ⟨⟨_, inv_runningWithHost, rfl, rfl, rfl, by decide, ?_, rfl, rfl⟩, ⟨_, rfl, rfl, rfl, rfl, rfl⟩⟩
  intro j u hj hu _
  match j, hj with
  | 0, _ => cases hu; rfl
  | 1, _ => cases hu; rfl
  | 2, _ => cases hu; rfl

theorem witness_IdleInflightIsUnobservable :
    (idle 3 4 5).SameButIdleInflight { idle 3 4 5 with inflight := some ⟨.modsub, 1, 2, 0⟩ } ∧
    ∃ s', step (idle 3 4 5) = .next s' :=
  ⟨⟨rfl, fun h => by cases h⟩, _, rfl⟩

theorem witness_CompletionAndWriteInEitherOrder :
    (running .modadd 3 4 5).rst = false ∧ (running .modadd 3 4 5).busy = true ∧
    (running .modadd 3 4 5).inflight = some ⟨.modadd, 3, 4, 5⟩ ∧
    result ⟨.modadd, 3, 4, 5⟩ = some 2#64 := by decide

/-- The last byte of a slot, the first slot's own address, and the first address past the slot space. -/
theorem witness_AdapterMapsEightBytesToEachSlot :
    (7 : Nat) < 8 ∧ (∃ idx, Adapter.slotOfAddress Config.baseAddr = some idx) ∧
    Config.baseAddr + 64 ≤ Config.baseAddr + 64 :=
  ⟨by decide, ⟨_, by simp [Adapter.slotOfAddress]; rfl⟩, Nat.le_refl _⟩

/-- ADD-11: both operands unreduced, the largest slow-path sum, on words. -/
theorem witness_SlowPathSumFitsInWord :
    p ≠ 0#64 ∧ ¬(0xFFFFFFFFFFFFFFFF#64 < p ∧ 0xFFFFFFFFFFFFFFFF#64 < p) ∧
    ¬(7#64 < 5#64 ∧ 3#64 < 5#64) := by decide

end Sys2Proof.Tests
end

/-! SUPPORT. STATUS: its value as a number, what a HOST write to it does, its invariants (R28) and OVR
(R27) across every effect of `Performs`. -/

namespace Sys2Proof.Machine

/-! ### The read value of STATUS -/

/-- Every cause has one of the three codes R26 gives. -/
theorem Cause.code_cases (c : Cause) : c.code = 0 ∨ c.code = 1 ∨ c.code = 2 := by
  cases c <;> decide

/-- The fields of STATUS lie below bit 9 (R22). -/
theorem statusSum_lt (s : State) :
    s.busy.toNat + 2 * s.done.toNat + 4 * s.fault.toNat + 16 * s.cause.code + 256 * s.ovr.toNat
      < 2 ^ 9 := by
  have hbusy := s.busy.toNat_le
  have hdone := s.done.toNat_le
  have hfault := s.fault.toNat_le
  have hcause := s.cause.code_cases
  have hovr := s.ovr.toNat_le
  omega

/-- The sum of R22 fits in a word, so the read value of STATUS is that sum. -/
theorem statusWord_toNat (s : State) :
    s.statusWord.toNat =
      s.busy.toNat + 2 * s.done.toNat + 4 * s.fault.toNat + 16 * s.cause.code + 256 * s.ovr.toNat := by
  rw [State.statusWord, BitVec.toNat_ofNat, Nat.mod_eq_of_lt]
  exact (statusSum_lt s).trans (by decide)

theorem statusWord_toNat_lt (s : State) : s.statusWord.toNat < 2 ^ 9 :=
  statusWord_toNat s ▸ statusSum_lt s

/-- Bit 3 is reserved: BUSY, DONE and FAULT stay below it and CAUSE and OVR are multiples of 16. -/
theorem statusWord_getLsbD_three (s : State) : s.statusWord.getLsbD 3 = false := by
  have hbusy := s.busy.toNat_le
  have hdone := s.done.toNat_le
  have hfault := s.fault.toNat_le
  have heven : s.statusWord.toNat / 2 ^ 3 % 2 = 0 := by
    rw [statusWord_toNat]
    omega
  rw [BitVec.getLsbD, Nat.testBit_eq_decide_div_mod_eq, heven]
  rfl

/-- The bits from 9 up are reserved. -/
theorem statusWord_getLsbD_of_nine_le (s : State) {n : Nat} (hn : 9 ≤ n) :
    s.statusWord.getLsbD n = false :=
  Nat.testBit_lt_two_pow ((statusWord_toNat_lt s).trans_le (Nat.pow_le_pow_right two_pos hn))

/-! ### The step that performs a HOST write -/

/-- While reset is released, the step that performs a HOST write is `RegWrite` (R45). -/
theorem step_hostWrite {s : State} {idx : BitVec 3} {v : Word} {es : List Event}
    (hr : s.rst = false) (hp : s.pending = .host ⟨true, idx, v⟩ :: es) :
    step s = regWrite idx v (s.beginStep es) := by
  simp [step_cons hp, perform, hostAccess, hr]

/-- Bit 8 of the word written to STATUS clears OVR; the word's other bits do nothing (R27, R28). -/
theorem writeStatus_eq (s : State) (v : Word) :
    s.writeStatus v = { s with ovr := if v.getLsbD 8 then false else s.ovr } := by
  unfold State.writeStatus
  cases v.getLsbD 8 <;> simp

/-- While reset is released, a HOST write to STATUS changes no field of the block but OVR (R28). -/
theorem step_statusWrite {s : State} {v : Word} {es : List Event}
    (hr : s.rst = false) (hp : s.pending = .host ⟨true, 5#3, v⟩ :: es) :
    step s = .next ((s.beginStep es).writeStatus v) :=
  step_hostWrite hr hp

/-! ### Driving the reset input -/

@[simp] theorem driveReset_true (s : State) : driveReset true s = s.assertReset := rfl

@[simp] theorem driveReset_false (s : State) : driveReset false s = { s with rst := false } := rfl

/-! ### The invariants of STATUS -/

/-- The invariants of R28 speak of BUSY, DONE, FAULT and CAUSE alone. -/
theorem State.StatusInv.congr {s t : State} (hs : s.StatusInv) (hbusy : t.busy = s.busy)
    (hdone : t.done = s.done) (hfault : t.fault = s.fault) (hcause : t.cause = s.cause) :
    t.StatusInv := by
  obtain ⟨busy_record, fault_cause, fault_done, cause_code⟩ := hs
  constructor <;> simpa only [hbusy, hdone, hfault, hcause]

/-- A cleared record (R62, R141) meets the invariants whatever BUSY is. -/
theorem statusInv_of_cleared {s : State} (hdone : s.done = false) (hfault : s.fault = false)
    (hcause : s.cause = .noFault) : s.StatusInv := by
  constructor <;> simp [hdone, hfault, hcause, Cause.code]

/-- Fault entry while `BUSY = 0` shows a cause together with FAULT and DONE. -/
theorem raiseFault_statusInv {s : State} {c : Cause} (hb : s.busy = false) (hc : c.code ≠ 0) :
    (s.raiseFault c).StatusInv :=
  { busy_record := by simp [hb]
    fault_cause := by simp [hc]
    fault_done := by simp
    cause_code := c.code_cases }

/-- A command in flight has a cleared record, so its completion sets DONE alone beside BUSY. -/
theorem finish_statusInv {s : State} (hs : s.StatusInv) (hb : s.busy = true) (v : Word) :
    (s.finish v).StatusInv := by
  obtain ⟨-, hfault, hcause⟩ := hs.busy_record hb
  constructor <;> simp [hfault, hcause]

theorem driveReset_statusInv {s : State} (hs : s.StatusInv) (level : Bool) :
    (driveReset level s).StatusInv := by
  cases level with
  | false => exact hs.congr rfl rfl rfl rfl
  | true => exact statusInv_of_cleared rfl rfl rfl

/-- Every effect an event can have keeps the invariants. -/
theorem Performs.statusInv {s t : State} {e : Event} (h : Performs s e t) (hs : s.StatusInv) :
    t.StatusInv := by
  cases h with
  | drive level => exact driveReset_statusInv hs level
  | held | ignored | idle => exact hs
  | read | discard | setA | setB | setM | status => exact hs.congr rfl rfl rfl rfl
  | illegal v r hr hb | zeroModulus v i hr hb => exact raiseFault_statusInv hb (by decide)
  | start => exact statusInv_of_cleared rfl rfl rfl
  | completion f v hr hb => exact finish_statusInv hs hb v

/-- Every step keeps the invariants of R28. -/
theorem step_statusInv {s t : State} (hs : s.StatusInv) (h : step s = .next t) : t.StatusInv :=
  (step_inv h).statusInv (hs.congr rfl rfl rfl rfl)

/-! ### OVR, event by event -/

/-- Asserting the reset input clears OVR and releasing it leaves OVR (R141). -/
theorem Performs.ovr_rst {s t : State} {level : Bool} (h : Performs s (.rst level) t) :
    t.ovr = if level then false else s.ovr := by
  cases h with
  | drive => cases level <;> rfl
  | held _ he => cases he

/-- ENGINE's turn leaves OVR (R27: it stays 1 across later commands). -/
theorem Performs.ovr_engine {s t : State} (h : Performs s .engine t) : t.ovr = s.ovr := by
  cases h <;> rfl

/-- What a HOST access does to OVR (R27): a discarded write sets it, a STATUS write with bit 8 clears it. -/
theorem Performs.ovr_host {s t : State} {x : Transaction} (h : Performs s (.host x) t) :
    t.ovr =
      if s.rst = true then s.ovr
      else if x.we = true ∧ x.idx.toNat ≤ 3 ∧ s.busy = true then true
      else if x.we = true ∧ x.idx = 5#3 ∧ x.wdata.getLsbD 8 = true then false
      else s.ovr := by
  cases h with
  | held _ _ hr => simp [hr]
  | read i w hr => simp [hr]
  | discard i v hr hb hi => simp [hr, hb, hi]
  | setA v hr hb | setB v hr hb | setM v hr hb => simp [hr, hb]
  | illegal v r hr hb | zeroModulus v i hr hb | start v i hr hb => simp [hr, hb]
  | status v hr => simp [hr, writeStatus_eq]
  | ignored i v hr hi => rcases hi with rfl | rfl | rfl <;> simp [hr]

/-! ### The obligations -/

/-- Settles O9: the reserved bits from the value of STATUS as a number, the STATUS write from `RegWrite`,
and the invariants from the effects of `Performs`. -/
theorem statusReservedBitsAndInvariants : Obligations.StatusReservedBitsAndInvariants := by
  refine ⟨fun s => ⟨statusWord_getLsbD_three s, fun _ => statusWord_getLsbD_of_nine_le s⟩, ?_,
    fun _ _ hs h => step_statusInv hs h⟩
  intro s v es hr hp
  rw [step_statusWrite hr hp, writeStatus_eq]
  rfl

/-- Settles O11, by cases on the event the step performs. -/
theorem overrunIsSticky : Obligations.OverrunIsSticky := by
  intro s t h
  have hp := step_inv h
  cases he : s.nextEvent with
  | rst level => exact (he ▸ hp).ovr_rst
  | engine => exact (he ▸ hp).ovr_engine
  | host x => exact (he ▸ hp).ovr_host

end Sys2Proof.Machine

/-! SUPPORT. HOST accesses slot by slot: what a read returns (R44), what a write does (R45), and which
accesses leave the same state when repeated (R46). -/

namespace Sys2Proof.Machine

/-! ### Slot indices and command words -/

/-- Every index names one of the eight slots (R42). -/
theorem slotIndex_cases (idx : BitVec 3) :
    idx = 0#3 ∨ idx = 1#3 ∨ idx = 2#3 ∨ idx = 3#3 ∨ idx = 4#3 ∨ idx = 5#3 ∨ idx = 6#3 ∨ idx = 7#3 := by
  revert idx
  decide

/-- The indices of A, B and M (R42). -/
theorem operandIndex_cases {idx : BitVec 3} (hi : idx.toNat ≤ 2) : idx = 0#3 ∨ idx = 1#3 ∨ idx = 2#3 := by
  revert idx
  decide

@[simp] theorem decode_encode (i : Instr) : decode (encode i) = .ok i := by
  cases i <;> rfl

/-! ### One HOST access -/

theorem hostAccess_held {s : State} (hr : s.rst = true) (x : Transaction) : hostAccess x s = .next s := by
  simp [hostAccess, hr]

theorem hostAccess_read {s : State} (hr : s.rst = false) (idx : BitVec 3) (w : Word) :
    hostAccess ⟨false, idx, w⟩ s = .next (hostRead idx s) := by
  simp [hostAccess, hr]

theorem hostAccess_write {s : State} (hr : s.rst = false) (idx : BitVec 3) (v : Word) :
    hostAccess ⟨true, idx, v⟩ s = regWrite idx v s := by
  simp [hostAccess, hr]

theorem hostAccess_inv {x : Transaction} {s t : State} (h : hostAccess x s = .next t) :
    Performs s (.host x) t :=
  perform_inv (e := .host x) h

/-- While reset is released, the step that performs a HOST read answers with `RegRead` (R44). -/
theorem step_hostRead {s : State} {idx : BitVec 3} {w : Word} {es : List Event}
    (hr : s.rst = false) (hp : s.pending = .host ⟨false, idx, w⟩ :: es) :
    step s = .next (hostRead idx (s.beginStep es)) :=
  (step_cons hp).trans (hostAccess_read (s := s.beginStep es) hr idx w)

/-! ### `RegRead`, slot by slot -/

/-- `RegRead(idx)` of R44 as one chain of conditions on the index. -/
theorem regRead_eq (s : State) (idx : BitVec 3) :
    s.regRead idx =
      if idx = 0#3 then s.a
      else if idx = 1#3 then s.b
      else if idx = 2#3 then s.m
      else if idx = 3#3 then 0#64
      else if idx = 4#3 then s.res
      else if idx = 5#3 then s.statusWord
      else 0#64 := by
  rcases slotIndex_cases idx with rfl | rfl | rfl | rfl | rfl | rfl | rfl | rfl <;> rfl

/-- No slot's read value depends on the response of an earlier read (R44). -/
@[simp] theorem regRead_hostRead (s : State) (i idx : BitVec 3) :
    (hostRead i s).regRead idx = s.regRead idx := by
  rw [regRead_eq, regRead_eq]
  rfl

theorem hostRead_hostRead (s : State) (idx : BitVec 3) : hostRead idx (hostRead idx s) = hostRead idx s := by
  rw [hostRead, regRead_hostRead]
  rfl

/-! ### `RegWrite`, slot by slot -/

theorem regWrite_cmd (v : Word) (s : State) : regWrite 3#3 v s = writeCmd v s := rfl

theorem writeCmd_encode (i : Instr) (s : State) : writeCmd (encode i) s = exec i s := by
  simp [writeCmd]

theorem writeCmd_busy {s : State} (hb : s.busy = true) (v : Word) : writeCmd v s = .next s.setOvr := by
  rcases writeCmd_cases v s with ⟨i, -, hw⟩ | ⟨-, -, hw⟩
  · rw [hw, exec_eq, acceptCommand_busy hb]
  · rw [hw, rejectCommand_busy hb]

/-- `RegWrite(idx, v)` of R45 as one chain of conditions on the index and BUSY. -/
theorem regWrite_eq (s : State) (idx : BitVec 3) (v : Word) :
    regWrite idx v s =
      if idx.toNat ≤ 3 then
        if s.busy then .next s.setOvr
        else if idx = 0#3 then .next { s with a := v }
        else if idx = 1#3 then .next { s with b := v }
        else if idx = 2#3 then .next { s with m := v }
        else writeCmd v s
      else if idx = 5#3 then .next (s.writeStatus v)
      else .next s := by
  rcases slotIndex_cases idx with rfl | rfl | rfl | rfl | rfl | rfl | rfl | rfl
  · exact apply_ite Host.Outcome.next _ _ _
  · exact apply_ite Host.Outcome.next _ _ _
  · exact apply_ite Host.Outcome.next _ _ _
  · cases hb : s.busy with
    | true => exact writeCmd_busy hb v
    | false => rfl
  all_goals rfl

/-- A HOST write to A, B, M or CMD while `BUSY = 1` is discarded with OVR (R45). -/
theorem regWrite_discard {s : State} {idx : BitVec 3} (hi : idx.toNat ≤ 3) (hb : s.busy = true) (v : Word) :
    regWrite idx v s = .next s.setOvr := by
  simp [regWrite_eq, hi, hb]

theorem hostAccess_discard {s : State} {idx : BitVec 3} (hr : s.rst = false) (hb : s.busy = true)
    (hi : idx.toNat ≤ 3) (v : Word) : hostAccess ⟨true, idx, v⟩ s = .next s.setOvr := by
  rw [hostAccess_write hr, regWrite_discard hi hb]

/-- A HOST write to A, B or M while `BUSY = 0` lands: the slot reads `v` at once (R45, R55). -/
theorem regWrite_operand_lands {s t : State} {idx : BitVec 3} {v : Word} (hi : idx.toNat ≤ 2)
    (hb : s.busy = false) (h : regWrite idx v s = .next t) : t.regRead idx = v ∧ t.busy = false := by
  rcases operandIndex_cases hi with rfl | rfl | rfl <;>
    · simp only [regWrite_eq, hb] at h
      cases h
      exact ⟨rfl, rfl⟩

/-- A command that is in flight right after its CMD write to an idle block was accepted on a copy of the
registers as they stood (R30, R62). -/
theorem exec_copies_operands {i : Instr} {s t : State} (hb : s.busy = false) (h : exec i s = .next t)
    (ht : t.busy = true) : t.inflight = some ⟨i, s.a, s.b, s.m⟩ := by
  rw [exec_eq] at h
  rcases acceptCommand_cases h with ⟨hbusy, -⟩ | ⟨-, -, -, rfl⟩ | ⟨-, -, rfl⟩
  · simp [hb] at hbusy
  · simp [hb] at ht
  · simp

/-! ### Repeated accesses -/

/-- A HOST read changes nothing but the response (R44). -/
theorem Performs.read_frame {s t : State} {x : Transaction} (h : Performs s (.host x) t)
    (hx : x.we = false) : t = { s with rdata := t.rdata } := by
  cases h with
  | held => rfl
  | read => rfl
  | _ => cases hx

/-- Repeating a HOST access changes nothing more, unless it is a CMD write that was not discarded under
BUSY (R46). -/
theorem Performs.host_repeat {s t : State} {x : Transaction} (h : Performs s (.host x) t)
    (hcmd : x.we = true → x.idx = 3#3 → s.busy = true) : hostAccess x t = .next t := by
  cases h with
  | held _ _ hr => exact hostAccess_held hr x
  | read i w hr => rw [hostAccess_read (s := hostRead i s) hr, hostRead_hostRead]
  | discard i v hr hb hi => exact hostAccess_discard (s := s.setOvr) hr hb hi v
  | setA v hr hb | setB v hr hb | setM v hr hb => simp [hostAccess_write, regWrite_eq, hr, hb]
  | illegal v r hr hb | zeroModulus v i hr hb | start v i hr hb => simp [hb] at hcmd
  | status v hr => simp [hostAccess_write, regWrite_eq, hr, State.writeStatus]
  | ignored i v hr hi =>
    rw [hostAccess_write hr]
    rcases hi with rfl | rfl | rfl <;> rfl

/-- The word of command `i` written to CMD is that command's arm of `exec`. -/
theorem hostAccess_cmdWrite_encode {s : State} (hr : s.rst = false) (i : Instr) :
    hostAccess (cmdWrite (encode i)) s = exec i s := by
  rw [cmdWrite, hostAccess_write hr, regWrite_cmd, writeCmd_encode]

/-- A command whose checks of R126 pass starts. -/
theorem exec_start {i : Instr} {s : State} (hb : s.busy = false) (hm : i.isKernel = true → s.m ≠ 0#64) :
    exec i s = .next (s.clearRecord.start i) := by
  rw [exec_eq, usesModulus_eq_isKernel, acceptCommand_start hb i hm]

/-! ### The obligations -/

/-- Settles O8: the four idempotent accesses are no accepted CMD write, so `Performs.host_repeat` covers
them; an accepted CMD write makes `BUSY = 1`, under which its repetition is discarded. -/
theorem repeatedAccessesAreIdempotentButForCmd : Obligations.RepeatedAccessesAreIdempotentButForCmd := by
  refine ⟨?_, ?_, ?_, ?_, ?_⟩
  · intro s t x hx h
    exact ⟨(hostAccess_inv h).host_repeat (by simp [hx]), (hostAccess_inv h).read_frame hx⟩
  · intro s t x _ hi h
    exact (hostAccess_inv h).host_repeat fun _ hidx => by simp [hidx] at hi
  · intro s t x _ hi _ h
    exact (hostAccess_inv h).host_repeat fun _ hidx => by simp [hidx] at hi
  · intro s t x _ _ hb h
    exact (hostAccess_inv h).host_repeat fun _ _ => hb
  · intro s t i hr hb hm h
    rw [hostAccess_cmdWrite_encode hr, exec_start hb hm] at h
    cases h
    exact ⟨rfl, _, hostAccess_discard (s := s.clearRecord.start i) hr rfl (by decide) _, rfl⟩

/-- Settles O6: the step is the read, and the read's response is `RegRead` in its chained form. -/
theorem hostReadAnswersTheSlot : Obligations.HostReadAnswersTheSlot := by
  intro s idx w es hr hp
  rw [step_hostRead hr hp, hostRead, regRead_eq]
  rfl

/-- Settles O7: the step is `RegWrite` in its chained form; an operand that lands is what the slot reads
and, the block being idle still, what the next acceptance copies. -/
theorem hostWriteChangesTheSlot : Obligations.HostWriteChangesTheSlot := by
  constructor
  · intro s idx v es hr hp
    rw [step_hostWrite hr hp, regWrite_eq, writeStatus_eq]
    rfl
  · intro s t idx v es hr hb hi hp h
    rw [step_hostWrite hr hp] at h
    obtain ⟨hread, hidle⟩ := regWrite_operand_lands (s := s.beginStep es) hi hb h
    exact ⟨hread, fun i u hu hbusy => exec_copies_operands hidle hu hbusy⟩

end Sys2Proof.Machine

/-! SUPPORT. Command words: their two fields (R57), which of them `Decode` answers with a command (R58,
R59), and what the disassembler prints (R67). -/

namespace Sys2Proof.Machine

/-! ### The fields of a command word -/

/-- OP is bits 2:0 of the word (R57). -/
@[simp] theorem ofWord_op_toNat (v : Word) : (CmdFields.ofWord v).op.toNat = v.toNat % 8 := by
  simp [CmdFields.ofWord]

/-- RSVD is bits 63:3 of the word (R57). -/
@[simp] theorem ofWord_rsvd_toNat (v : Word) : (CmdFields.ofWord v).rsvd.toNat = v.toNat / 8 := by
  have hv := v.isLt
  simp only [CmdFields.ofWord, BitVec.extractLsb'_toNat, Nat.shiftRight_eq_div_pow]
  omega

/-- The two fields hold every bit of the word: bits 2:0 come from OP, the others from RSVD (R57). -/
theorem toWord_ofWord (v : Word) : (CmdFields.ofWord v).toWord = v := by
  ext k hk
  by_cases hop : k < 3
  · simp [CmdFields.toWord, CmdFields.ofWord, hop, BitVec.getLsbD_eq_getElem hk]
  · have hrsvd : k - 3 < 61 := by omega
    have hbit : 3 + (k - 3) = k := by omega
    simp [CmdFields.toWord, CmdFields.ofWord, hop, hrsvd, hbit, BitVec.getLsbD_eq_getElem hk]

/-! ### Well-formed fields are those of a command -/

theorem wellFormed_iff (f : CmdFields) : f.wellFormed = true ↔ f.rsvd = 0#61 ∧ f.op.toNat ≤ 4 := by
  simp [CmdFields.wellFormed, CmdFields.rsvdZero, CmdFields.opAssigned]

/-- The two checks of R59, read off the word as a number. -/
theorem ofWord_wellFormed_iff (v : Word) :
    (CmdFields.ofWord v).wellFormed = true ↔ v.toNat / 8 = 0 ∧ v.toNat % 8 ≤ 4 := by
  rw [wellFormed_iff, ← BitVec.toNat_inj, ofWord_rsvd_toNat, ofWord_op_toNat, BitVec.toNat_zero]

theorem fields_wellFormed (i : Instr) : i.fields.wellFormed = true := by
  cases i <;> rfl

/-- Each of the codes 0 to 4 is some command's OP (R57). -/
theorem exists_opcode_eq {op : BitVec 3} (hop : op.toNat ≤ 4) : ∃ i : Instr, i.opcode = op := by
  have hcodes : op = 0#3 ∨ op = 1#3 ∨ op = 2#3 ∨ op = 3#3 ∨ op = 4#3 := by
    revert op
    decide
  rcases hcodes with rfl | rfl | rfl | rfl | rfl
  exacts [⟨.modadd, rfl⟩, ⟨.modsub, rfl⟩, ⟨.modmul, rfl⟩, ⟨.modpow, rfl⟩, ⟨.isprime, rfl⟩]

/-- Fields that pass both checks of R59 are the fields of a command. -/
theorem exists_fields_eq {f : CmdFields} (hf : f.wellFormed = true) : ∃ i : Instr, i.fields = f := by
  obtain ⟨hrsvd, hop⟩ := (wellFormed_iff f).mp hf
  obtain ⟨i, hi⟩ := exists_opcode_eq hop
  exact ⟨i, by rw [Instr.fields, hi, ← hrsvd]⟩

/-- A word whose fields pass both checks is the word of a command. -/
theorem exists_encode_eq {v : Word} (hf : (CmdFields.ofWord v).wellFormed = true) :
    ∃ i : Instr, encode i = v := by
  obtain ⟨i, hi⟩ := exists_fields_eq hf
  exact ⟨i, by rw [encode, hi, toWord_ofWord]⟩

/-! ### `Decode` -/

theorem decode_of_reservedBits {v : Word} (hrsvd : (CmdFields.ofWord v).rsvdZero = false) :
    decode v = .error .reservedBitsSet := by
  simp [decode, hrsvd]

theorem decode_of_reservedOp {v : Word} (hrsvd : (CmdFields.ofWord v).rsvdZero = true)
    (hop : (CmdFields.ofWord v).opAssigned = false) : decode v = .error .opReserved := by
  have hcodes : v.toNat % 8 = 5 ∨ v.toNat % 8 = 6 ∨ v.toNat % 8 = 7 := by
    simp only [CmdFields.opAssigned, ofWord_op_toNat, decide_eq_false_iff_not] at hop
    omega
  rcases hcodes with h | h | h <;> simp [decode, hrsvd, h]

/-- A word whose fields fail a check decodes to no command (R59). -/
theorem decode_error_of_not_wellFormed {v : Word} (hf : ¬(CmdFields.ofWord v).wellFormed = true) :
    ∃ e, decode v = .error e := by
  cases hrsvd : (CmdFields.ofWord v).rsvdZero with
  | false => exact ⟨_, decode_of_reservedBits hrsvd⟩
  | true => exact ⟨_, decode_of_reservedOp hrsvd (by simpa [CmdFields.wellFormed, hrsvd] using hf)⟩

/-- Decoding is total (R58): every word is the word of a command, which it decodes to, or its fields fail
a check and it is illegal. -/
theorem decode_cases (v : Word) :
    (∃ i, v = encode i ∧ decode v = .ok i) ∨
    (¬(CmdFields.ofWord v).wellFormed = true ∧ ∃ e, decode v = .error e) := by
  by_cases hf : (CmdFields.ofWord v).wellFormed = true
  · obtain ⟨i, rfl⟩ := exists_encode_eq hf
    exact .inl ⟨i, rfl, decode_encode i⟩
  · exact .inr ⟨hf, decode_error_of_not_wellFormed hf⟩

/-- Decode and encode agree (R58): a word decodes to a command exactly when it is that command's word. -/
theorem decode_eq_ok_iff (v : Word) (i : Instr) : decode v = .ok i ↔ v = encode i := by
  constructor
  · intro h
    rcases decode_cases v with ⟨j, hv, hj⟩ | ⟨-, e, he⟩
    · cases hj.symm.trans h
      exact hv
    · cases he.symm.trans h
  · rintro rfl
    exact decode_encode i

/-- A word is illegal exactly when its fields fail a check (R59). -/
theorem decode_error_iff (v : Word) :
    (∃ e, decode v = .error e) ↔ ¬(CmdFields.ofWord v).wellFormed = true := by
  refine ⟨fun ⟨e, he⟩ => ?_, decode_error_of_not_wellFormed⟩
  rcases decode_cases v with ⟨i, -, hi⟩ | ⟨hf, -⟩
  · cases hi.symm.trans he
  · exact hf

/-! ### Hexadecimal digits -/

/-- The values of the `n` low hexadecimal digits of `v`, the most significant first: what `hexDigits`
prints (`hexDigits_eq_map`). -/
def hexValues : Nat → Nat → List Nat
  | 0, _ => []
  | n + 1, v => hexValues n (v / 16) ++ [v % 16]

/-- The number a list of hexadecimal digit values stands for, the most significant first. -/
def ofHexValues (ds : List Nat) : Nat := ds.foldl (fun n d => 16 * n + d) 0

theorem ofHexValues_append_singleton (ds : List Nat) (d : Nat) :
    ofHexValues (ds ++ [d]) = 16 * ofHexValues ds + d := by
  simp [ofHexValues]

theorem hexDigits_eq_map (n v : Nat) : hexDigits n v = (hexValues n v).map hexDigit := by
  induction n generalizing v with
  | zero => rfl
  | succ n ih => simp [hexDigits, hexValues, ih]

@[simp] theorem hexValues_length (n v : Nat) : (hexValues n v).length = n := by
  induction n generalizing v with
  | zero => rfl
  | succ n ih => simp [hexValues, ih]

theorem lt_of_mem_hexValues {n v d : Nat} (hd : d ∈ hexValues n v) : d < 16 := by
  induction n generalizing v with
  | zero => cases hd
  | succ n ih =>
    rcases List.mem_append.mp hd with hhigh | hlow
    · exact ih hhigh
    · rw [List.mem_singleton.mp hlow]
      exact Nat.mod_lt v (by decide)

/-- `n` digits hold every value below `16 ^ n`. -/
theorem ofHexValues_hexValues {n v : Nat} (hv : v < 16 ^ n) : ofHexValues (hexValues n v) = v := by
  induction n generalizing v with
  | zero =>
    rw [Nat.lt_one_iff.mp hv]
    rfl
  | succ n ih =>
    have hhigh : v / 16 < 16 ^ n := Nat.div_lt_of_lt_mul (by rwa [← Nat.pow_succ'])
    rw [hexValues, ofHexValues_append_singleton, ih hhigh]
    exact Nat.div_add_mod v 16

/-! ### The disassembler -/

/-- A command's word prints as its mnemonic (R67). -/
theorem disassemble_encode (i : Instr) : disassemble (encode i) = i.mnemonic := by
  rw [disassemble, decode_encode]

/-- An illegal word prints as `.illegal 0x` and its 16 hexadecimal digits (R67). -/
theorem disassemble_illegal {v : Word} {e : Illegal} (he : decode v = .error e) :
    disassemble v = ".illegal 0x" ++ String.ofList ((hexValues 16 v.toNat).map hexDigit) := by
  rw [disassemble, he, ← hexDigits_eq_map]

/-! ### The obligations -/

/-- Settles O1: a word is illegal exactly when its fields fail a check, which `ofWord_wellFormed_iff`
states of the word as a number; otherwise it is the one command's word with those fields. -/
theorem decodeReadsExactlyTheEncodedWord : Obligations.DecodeReadsExactlyTheEncodedWord := by
  refine ⟨decode_eq_ok_iff, ⟨rfl, rfl, rfl, rfl, rfl⟩, fun v => ?_⟩
  rw [decode_error_iff, ofWord_wellFormed_iff]
  omega

/-- Settles O4: the digits of an illegal word are `hexValues 16`, which hold any 64-bit value. -/
theorem disassemblerPrintsMnemonicOrHex : Obligations.DisassemblerPrintsMnemonicOrHex := by
  refine ⟨disassemble_encode, ?_, by decide, fun v e he => ?_⟩
  · exact ⟨disassemble_encode .modadd, disassemble_encode .modsub, disassemble_encode .modmul,
      disassemble_encode .modpow, disassemble_encode .isprime⟩
  · exact ⟨hexValues 16 v.toNat, hexValues_length 16 v.toNat, fun d => lt_of_mem_hexValues,
      ofHexValues_hexValues v.isLt, disassemble_illegal he⟩

end Sys2Proof.Machine

/-! SUPPORT. The closed forms of the four kernel functions (R73, R78, R82, R87), their ranges (R90), the
slow path of `mod_add` on words (R75), and the four kernel commands from acceptance to completion. -/

namespace Sys2Proof.Machine

/-! ### `mod_add` -/

/-- R73: both paths of `mod_add` give the residue of the sum. -/
theorem modAdd_eq (a b m : Nat) : modAdd a b m = (a + b) % m := by
  by_cases h : a < m ∧ b < m
  · obtain ⟨ha, hb⟩ := h
    rw [modAdd_fast ha hb, Nat.add_mod_eq_ite, Nat.mod_eq_of_lt ha, Nat.mod_eq_of_lt hb]
    simp only [Nat.sub_le_iff_le_add]
    split <;> omega
  · rw [modAdd_slow h, ← Nat.add_mod]

theorem modAdd_lt {m : Nat} (hm : 0 < m) (a b : Nat) : modAdd a b m < m :=
  modAdd_eq a b m ▸ Nat.mod_lt _ hm

/-- An operand not below `m` loses at least `m` by its reduction, which is more than the other remainder. -/
theorem mod_add_mod_lt_of_le {a m : Nat} (hm : 0 < m) (ha : m ≤ a) (b : Nat) : a % m + b % m < a := by
  have hreduced : a % m ≤ a - m := Nat.mod_eq_sub_mod ha ▸ Nat.mod_le _ _
  have hother : b % m < m := Nat.mod_lt b hm
  omega

/-- R75: in the slow path some operand is not below `m`, and the sum of the remainders is below that
operand, hence fits in a word. -/
theorem mod_add_mod_le_of_slow {a b m : Nat} (ha : a < 2 ^ 64) (hb : b < 2 ^ 64) (hm : 0 < m)
    (h : ¬(a < m ∧ b < m)) : a % m + b % m ≤ 2 ^ 64 - 2 := by
  rcases not_and_or.mp h with hslow | hslow
  · have hsum := mod_add_mod_lt_of_le hm (not_lt.mp hslow) b
    omega
  · have hsum := mod_add_mod_lt_of_le hm (not_lt.mp hslow) a
    omega

/-- R75: on words, whose addition wraps, the slow path gives the value of `mod_add`. -/
theorem slowPath_toNat {a b m : Word} (hm : m ≠ 0#64) (h : ¬(a < m ∧ b < m)) :
    ((a % m + b % m) % m).toNat = modAdd a.toNat b.toNat m.toNat := by
  have hpos : 0 < m.toNat := BitVec.toNat_pos_of_ne_zero hm
  have hslow : ¬(a.toNat < m.toNat ∧ b.toNat < m.toNat) := h
  have hfits := mod_add_mod_le_of_slow a.isLt b.isLt hpos hslow
  rw [modAdd_slow hslow, BitVec.toNat_umod, BitVec.toNat_add, BitVec.toNat_umod, BitVec.toNat_umod,
    Nat.mod_eq_of_lt (a := _ + _) (by omega)]

/-! ### `mod_sub` -/

/-- R78: on reduced operands the sign correction gives the residue of the difference. -/
theorem signCorrect_eq_emod {a b m : Nat} (ha : a < m) (hb : b < m) :
    (signCorrect a b m : Int) = ((a : Int) - b) % m := by
  rw [signCorrect]
  split
  · rw [← Int.add_emod_right, Int.emod_eq_of_lt] <;> omega
  · rw [Int.emod_eq_of_lt] <;> omega

/-- R78: both paths of `mod_sub` give the residue of the integer `a - b`. -/
theorem modSub_eq_emod {m : Nat} (hm : 0 < m) (a b : Nat) :
    (modSub a b m : Int) = ((a : Int) - b) % m := by
  by_cases h : a < m ∧ b < m
  · obtain ⟨ha, hb⟩ := h
    rw [modSub_fast ha hb, signCorrect_eq_emod ha hb]
  · rw [modSub_slow h, Int.natCast_mod, signCorrect_eq_emod (Nat.mod_lt a hm) (Nat.mod_lt b hm),
      Int.emod_emod, Int.natCast_mod, Int.natCast_mod, ← Int.sub_emod]

theorem modSub_eq_toNat {m : Nat} (hm : 0 < m) (a b : Nat) :
    modSub a b m = (((a : Int) - b) % m).toNat :=
  modSub_eq_emod hm a b ▸ (Int.toNat_natCast _).symm

theorem modSub_lt {m : Nat} (hm : 0 < m) (a b : Nat) : modSub a b m < m := by
  have hres : (modSub a b m : Int) < m := modSub_eq_emod hm a b ▸ Int.emod_lt_of_pos _ (by omega)
  omega

/-- R94: `mod_add` undoes `mod_sub`. -/
theorem modAdd_modSub {m : Nat} (hm : 0 < m) (a b : Nat) : modAdd (modSub a b m) b m = a % m := by
  rw [modAdd_eq, ← Int.natCast_inj, Int.natCast_mod, Int.natCast_add, modSub_eq_emod hm,
    Int.emod_add_emod, Int.sub_add_cancel, Int.natCast_mod]

/-! ### `mod_mul` -/

/-- One iteration of double-and-add keeps `r + a * b` modulo `m` (R82). -/
theorem modMul_iteration_modEq (m r a b : Nat) :
    (if b % 2 = 1 then modAdd r a m else r) + modAdd a a m * (b / 2) ≡ r + a * b [MOD m] := by
  have hdouble : modAdd a a m * (b / 2) ≡ (a + a) * (b / 2) [MOD m] := by
    rw [modAdd_eq]
    exact (Nat.mod_modEq _ _).mul_right _
  have hsplit : r + a * b = r + a * (b % 2) + (a + a) * (b / 2) := by
    conv_lhs => rw [← Nat.div_add_mod b 2]
    ring
  rw [hsplit]
  refine Nat.ModEq.add ?_ hdouble
  split
  · rename_i hodd
    rw [modAdd_eq, hodd, mul_one]
    exact Nat.mod_modEq _ _
  · rename_i heven
    rw [Nat.mod_two_ne_one.mp heven, mul_zero, add_zero]

/-- The loop of `mod_mul`, given an iteration for each bit of `b`, leaves the residue of `r + a * b`. -/
theorem modMulLoop_eq {m n r a b : Nat} (hr : r < m) (hb : b < 2 ^ n) :
    modMulLoop m n r a b = (r + a * b) % m := by
  induction n generalizing r a b with
  | zero =>
    obtain rfl : b = 0 := by omega
    simp [Nat.mod_eq_of_lt hr]
  | succ n ih =>
    by_cases hb0 : b = 0
    · simp [hb0, Nat.mod_eq_of_lt hr]
    · have hr' : (if b % 2 = 1 then modAdd r a m else r) < m := by
        split
        · exact modAdd_lt (by omega) r a
        · exact hr
      rw [modMulLoop_iter m n r a hb0, ih hr' (by omega)]
      exact modMul_iteration_modEq m r a b

/-- R82: `mod_mul` is the residue of the exact product; 64 iterations reach every bit of `b`. -/
theorem modMul_eq {b m : Nat} (hm : 0 < m) (hb : b < 2 ^ 64) (a : Nat) : modMul a b m = (a * b) % m := by
  rw [modMul, modMulLoop_eq hm hb, Nat.zero_add]

theorem modMul_lt {b m : Nat} (hm : 0 < m) (hb : b < 2 ^ 64) (a : Nat) : modMul a b m < m :=
  modMul_eq hm hb a ▸ Nat.mod_lt _ hm

/-! ### `mod_pow` -/

/-- One iteration of square-and-multiply keeps `r * a ^ b` modulo `m` (R87). -/
theorem modPow_iteration_modEq {m a : Nat} (hm : 0 < m) (ha : a < 2 ^ 64) (r b : Nat) :
    (if b % 2 = 1 then modMul r a m else r) * modMul a a m ^ (b / 2) ≡ r * a ^ b [MOD m] := by
  have hsquare : modMul a a m ^ (b / 2) ≡ a ^ (2 * (b / 2)) [MOD m] := by
    rw [modMul_eq hm ha, pow_mul, pow_two]
    exact (Nat.mod_modEq _ _).pow _
  have hsplit : r * a ^ b = r * a ^ (b % 2) * a ^ (2 * (b / 2)) := by
    rw [mul_assoc, ← pow_add, Nat.mod_add_div]
  rw [hsplit]
  refine Nat.ModEq.mul ?_ hsquare
  split
  · rename_i hodd
    rw [modMul_eq hm ha, hodd, pow_one]
    exact Nat.mod_modEq _ _
  · rename_i heven
    rw [Nat.mod_two_ne_one.mp heven, pow_zero, mul_one]

/-- The loop of `mod_pow`, given an iteration for each bit of `b`, keeps `r * a ^ b` modulo `m`. -/
theorem modPowLoop_modEq {m n r a b : Nat} (hm : 0 < m) (hm64 : m < 2 ^ 64) (ha : a < 2 ^ 64)
    (hb : b < 2 ^ n) : modPowLoop m n r a b ≡ r * a ^ b [MOD m] := by
  induction n generalizing r a b with
  | zero =>
    obtain rfl : b = 0 := by omega
    simp [Nat.ModEq.refl]
  | succ n ih =>
    by_cases hb0 : b = 0
    · simp [hb0, Nat.ModEq.refl]
    · rw [modPowLoop_iter m n r a hb0]
      exact (ih ((modMul_lt hm ha a).trans hm64) (by omega)).trans (modPow_iteration_modEq hm ha r b)

/-- The loop of `mod_pow` leaves a reduced value, unless there is nothing to do on an unreduced `r`: the
last iteration multiplies, since its `b` is 1 (R88, R90). -/
theorem modPowLoop_lt {m n r a b : Nat} (hm : 0 < m) (hm64 : m < 2 ^ 64) (ha : a < 2 ^ 64)
    (hb : b < 2 ^ n) (hr : b = 0 → r < m) : modPowLoop m n r a b < m := by
  induction n generalizing r a b with
  | zero => exact hr (by omega)
  | succ n ih =>
    by_cases hb0 : b = 0
    · simpa [hb0] using hr hb0
    · rw [modPowLoop_iter m n r a hb0]
      refine ih ((modMul_lt hm ha a).trans hm64) (by omega) fun hlast => ?_
      rw [if_pos (by omega)]
      exact modMul_lt hm ha r

/-- R88: no iteration for `b = 0`, so the initial 1 is the value. -/
@[simp] theorem modPow_zero (a m : Nat) : modPow a 0 m = 1 := modPowLoop_done m 64 1 a

theorem modPow_lt {a b m : Nat} (hm : 0 < m) (hm64 : m < 2 ^ 64) (ha : a < 2 ^ 64) (hb : b < 2 ^ 64)
    (h : b = 0 → 1 < m) : modPow a b m < m :=
  modPowLoop_lt hm hm64 ha hb h

/-- R87: `mod_pow` is 1 for `b = 0` and the residue of the power for `b > 0`. -/
theorem modPow_eq {a b m : Nat} (hm : 0 < m) (hm64 : m < 2 ^ 64) (ha : a < 2 ^ 64) (hb : b < 2 ^ 64) :
    modPow a b m = if b = 0 then 1 else a ^ b % m := by
  split
  · rename_i hb0
    rw [hb0, modPow_zero]
  · rename_i hb0
    have hmod : modPow a b m ≡ 1 * a ^ b [MOD m] := modPowLoop_modEq hm hm64 ha hb
    rw [one_mul] at hmod
    exact (Nat.mod_eq_of_modEq hmod.symm (modPow_lt hm hm64 ha hb (absurd · hb0))).symm

/-! ### From acceptance to completion -/

/-- A command whose checks of R126 pass is accepted with a copy of the operands, and its completion writes
the value of that copy and nothing else but BUSY and DONE (R62, R63). -/
theorem exec_then_complete {i : Instr} {s : State} {v : Word} (hb : s.busy = false)
    (hm : i.isKernel = true → s.m ≠ 0#64) (hv : result ⟨i, s.a, s.b, s.m⟩ = some v) :
    ∃ t, exec i s = .next t ∧
      t = { s with
        done := false, fault := false, cause := .noFault, busy := true
        inflight := some ⟨i, s.a, s.b, s.m⟩ } ∧
      complete t = .next { t with res := v, busy := false, done := true } :=
  ⟨s.clearRecord.start i, exec_start hb hm, rfl, complete_next rfl hv⟩

theorem kernelResult_eq {m : Word} (hm : m ≠ 0#64) (f : Nat → Nat → Nat → Nat) (a b : Word) :
    kernelResult f a b m = some (BitVec.ofNat 64 (f a.toNat b.toNat m.toNat)) :=
  if_neg hm

theorem resultModadd_eq {m : Word} (hm : m ≠ 0#64) (a b : Word) :
    resultModadd a b m = some (BitVec.ofNat 64 ((a.toNat + b.toNat) % m.toNat)) := by
  rw [resultModadd, kernelResult_eq hm, modAdd_eq]

theorem resultModsub_eq {m : Word} (hm : m ≠ 0#64) (a b : Word) :
    resultModsub a b m =
      some (BitVec.ofNat 64 (((a.toNat : Int) - b.toNat) % m.toNat).toNat) := by
  rw [resultModsub, kernelResult_eq hm, modSub_eq_toNat (BitVec.toNat_pos_of_ne_zero hm)]

theorem resultModmul_eq {m : Word} (hm : m ≠ 0#64) (a b : Word) :
    resultModmul a b m = some (BitVec.ofNat 64 ((a.toNat * b.toNat) % m.toNat)) := by
  rw [resultModmul, kernelResult_eq hm, modMul_eq (BitVec.toNat_pos_of_ne_zero hm) b.isLt]

theorem resultModpow_eq {m : Word} (hm : m ≠ 0#64) (a b : Word) :
    resultModpow a b m =
      some (if b = 0#64 then 1#64 else BitVec.ofNat 64 (a.toNat ^ b.toNat % m.toNat)) := by
  rw [resultModpow, kernelResult_eq hm,
    modPow_eq (BitVec.toNat_pos_of_ne_zero hm) m.isLt a.isLt b.isLt, apply_ite (BitVec.ofNat 64)]
  simp only [← BitVec.toNat_inj, BitVec.toNat_zero]

/-! ### The obligations -/

/-- Settles O18: both paths of `mod_add` give the residue of the sum, `modAdd_eq`. -/
theorem modaddCompletesWithTheSum : Obligations.ModaddCompletesWithTheSum :=
  ⟨fun _ hb hm => exec_then_complete hb (fun _ => hm) (resultModadd_eq hm _ _),
    fun a b m _ _ _ _ => modAdd_eq a b m⟩

/-- Settles O19: both paths of `mod_sub` give the residue of the integer difference, `modSub_eq_emod`. -/
theorem modsubCompletesWithTheDifference : Obligations.ModsubCompletesWithTheDifference :=
  ⟨fun _ hb hm => exec_then_complete hb (fun _ => hm) (resultModsub_eq hm _ _),
    fun a b _ _ _ hm _ => modSub_eq_emod hm a b, fun a b _ _ _ hm _ => modAdd_modSub hm a b⟩

/-- Settles O20: the closed form is the invariant of double-and-add, `modMul_iteration_modEq`. -/
theorem modmulCompletesWithTheProduct : Obligations.ModmulCompletesWithTheProduct :=
  ⟨fun _ hb hm => exec_then_complete hb (fun _ => hm) (resultModmul_eq hm _ _),
    fun a _ _ _ hb hm _ => modMul_eq hm hb a⟩

/-- Settles O21: the closed form is the invariant of square-and-multiply, `modPow_iteration_modEq`. -/
theorem modpowCompletesWithThePower : Obligations.ModpowCompletesWithThePower :=
  ⟨fun _ hb hm => exec_then_complete hb (fun _ => hm) (resultModpow_eq hm _ _),
    fun _ _ _ ha hb hm hm64 => modPow_eq hm hm64 ha hb⟩

/-- Settles O23: the sum of the remainders is below an operand, so word addition does not wrap on it. -/
theorem slowPathSumFitsInWord : Obligations.SlowPathSumFitsInWord :=
  ⟨fun _ _ _ ha hb hm _ hslow => ⟨modAdd_slow hslow, mod_add_mod_le_of_slow ha hb hm hslow⟩,
    fun _ _ _ hm hslow => slowPath_toNat hm hslow⟩

/-- Settles O24: only `mod_pow(a, 0, 1) = 1` is not below `m`, and 1 is below `2 ^ 64`. -/
theorem kernelResultsStayInRange : Obligations.KernelResultsStayInRange := by
  intro a b m ha hb hm hm64
  have hadd := modAdd_lt hm a b
  have hsub := modSub_lt hm a b
  have hmul := modMul_lt hm hb a
  have hpow : ¬(b = 0 ∧ m = 1) → modPow a b m < m := fun h =>
    modPow_lt hm hm64 ha hb fun hb0 => by omega
  have hone : b = 0 → m = 1 → modPow a b m = 1 := by
    rintro rfl -
    exact modPow_zero a m
  refine ⟨hadd, hsub, hmul, hpow, hone, hadd.trans hm64, hsub.trans hm64, hmul.trans hm64, ?_⟩
  by_cases hexc : b = 0 ∧ m = 1
  · rw [hone hexc.1 hexc.2]
    decide
  · exact (hpow hexc).trans hm64

end Sys2Proof.Machine

/-! SUPPORT. The branches of `is_prime` (R103, R104), its decomposition of `n - 1` (R105), the order of the
bases (R102), and ISPRIME from acceptance to completion (R110). -/

namespace Sys2Proof.Machine

/-! ### Steps 1 and 2 -/

theorem isPrime_two : isPrime 2 = .prime := rfl

theorem isPrime_three : isPrime 3 = .prime := rfl

theorem isPrime_one : isPrime 1 = .composite := rfl

/-- R104: step 2 decides every even `n` but 2, which step 1 has decided. -/
theorem isPrime_of_even {n : Nat} (heven : n % 2 = 0) (hn : n ≠ 2) : isPrime n = .composite := by
  have hstep1 : ¬(n = 2 ∨ n = 3) := by omega
  rw [isPrime, if_neg hstep1, if_pos (.inr heven)]

/-- What steps 1 and 2 leave is decided by the bases. -/
theorem isPrime_eq_testBases {n : Nat} (hstep1 : ¬(n = 2 ∨ n = 3)) (hstep2 : ¬(n = 1 ∨ n % 2 = 0)) :
    isPrime n = testBases n (decompose n).1 (decompose n).2 bases := by
  rw [isPrime, if_neg hstep1, if_neg hstep2]

/-! ### Step 3 -/

/-- The halving loop, given an iteration for each factor 2, counts them all and leaves the odd part. -/
theorem decomposeLoop_two_pow_mul {c j q : Nat} (hq : q % 2 = 1) (hj : j ≤ c) (k : Nat) :
    decomposeLoop c k (2 ^ j * q) = (k + j, q) := by
  induction j generalizing c k with
  | zero => rw [pow_zero, one_mul, decomposeLoop_odd c k hq, add_zero]
  | succ j ih =>
    obtain ⟨c, rfl⟩ := Nat.exists_eq_add_one_of_ne_zero (Nat.ne_zero_of_lt hj)
    have hdouble : 2 ^ (j + 1) * q = 2 * (2 ^ j * q) := by ring
    rw [hdouble, decomposeLoop_even c k (Nat.mul_mod_right _ _), Nat.mul_div_cancel_left _ two_pos,
      ih (by omega), Nat.add_right_comm, add_assoc]

theorem lt_of_two_pow_mul_odd_lt {k q c : Nat} (hq : q % 2 = 1) (h : 2 ^ k * q < 2 ^ c) : k < c :=
  (Nat.pow_lt_pow_iff_right one_lt_two).mp ((Nat.le_mul_of_pos_right _ (by omega)).trans_lt h)

/-- Step 3 finds the one decomposition of `n - 1` with an odd `q`; 64 iterations suffice for a 64-bit `n`. -/
theorem decompose_eq {n k q : Nat} (hn : n < 2 ^ 64) (hq : q % 2 = 1) (hkq : n - 1 = 2 ^ k * q) :
    decompose n = (k, q) := by
  have hk : k < 64 := lt_of_two_pow_mul_odd_lt hq (hkq ▸ (Nat.sub_le n 1).trans_lt hn)
  rw [decompose, hkq, decomposeLoop_two_pow_mul hq hk.le, Nat.zero_add]

/-! ### The order of the bases -/

/-- There are only two verdicts. -/
theorem Verdict.eq_of_prime_iff {v w : Verdict} (h : v = .prime ↔ w = .prime) : v = w := by
  cases v with
  | prime => exact (h.mp rfl).symm
  | composite =>
    cases w with
    | prime => exact h.mpr rfl
    | composite => rfl

/-- The test asks only whether every base is inconclusive, so the order decides nothing (R102). -/
theorem testBases_perm (n k q : Nat) {l l' : List Nat} (h : l.Perm l') :
    testBases n k q l = testBases n k q l' :=
  Verdict.eq_of_prime_iff (by simp only [testBases_prime_iff, h.mem_iff])

/-! ### ISPRIME -/

theorem Verdict.word_eq (v : Verdict) : v.word = if v = .prime then 1#64 else 0#64 := by
  cases v <;> rfl

theorem resultIsprime_eq (a : Word) :
    resultIsprime a = some (if isPrime a.toNat = .prime then 1#64 else 0#64) := by
  rw [resultIsprime, Verdict.word_eq]

/-! ### The obligations -/

/-- Settles O26: step 3 finds the odd part of `n - 1`, `decompose_eq`; as `n - 1` is even, it halves at
least once. -/
theorem decompositionIsExact : Obligations.DecompositionIsExact := by
  intro n hn h5 hodd
  obtain ⟨k, q, hq, hkq⟩ := Nat.exists_eq_two_pow_mul_odd (n := n - 1) (by omega)
  rw [Nat.odd_iff] at hq
  have hk : k < 64 := lt_of_two_pow_mul_odd_lt hq (by omega)
  have hk0 : k ≠ 0 := by
    rintro rfl
    omega
  rw [decompose_eq hn hq hkq]
  exact ⟨hkq, hq, by omega, by omega, by omega, hkq ▸ Nat.le_mul_of_pos_right _ (by omega)⟩

/-- Settles O30: a permutation has the same bases, `testBases_perm`. -/
theorem baseOrderDoesNotChangeTheResult : Obligations.BaseOrderDoesNotChangeTheResult :=
  ⟨rfl, fun n _ hstep1 hstep2 hperm =>
    have hbases := isPrime_eq_testBases hstep1 hstep2
    ⟨hbases, (testBases_perm n _ _ hperm).trans hbases.symm⟩⟩

/-- Settles O22: ISPRIME is no kernel command, so acceptance asks nothing of M. -/
theorem isprimeCompletesWithTheVerdict : Obligations.IsprimeCompletesWithTheVerdict :=
  fun s hb => exec_then_complete hb (fun hkernel => absurd hkernel (by decide)) (resultIsprime_eq s.a)

/-- Settles O25: 0 is even, so step 2 decides it as it decides 1. -/
theorem smallAndEvenNumbersAreDecidedAtOnce : Obligations.SmallAndEvenNumbersAreDecidedAtOnce :=
  ⟨isPrime_two, isPrime_three, isPrime_of_even rfl (by decide), isPrime_one,
    fun _ => isPrime_of_even, fun _ _ _ => by omega⟩

end Sys2Proof.Machine

/-! SUPPORT. Acceptance and faults: what a CMD write to an idle block does, check by check (R62, R126), and
what every effect of `Performs` does to the fault record (R127, R128). -/

namespace Sys2Proof.Machine

/-! ### A CMD write while `BUSY = 0` -/

/-- The third check of R126: a kernel command faults on `M = 0` (R123). -/
theorem exec_zeroModulus {i : Instr} {s : State} (hb : s.busy = false) (hk : i.isKernel = true)
    (hm : s.m = 0#64) : exec i s = .next (s.clearRecord.raiseFault .zeroModulus) := by
  rw [exec_eq, usesModulus_eq_isKernel, hk, acceptCommand_zero hb i hm]

theorem writeCmd_of_decode_ok {v : Word} {i : Instr} (hd : decode v = .ok i) (s : State) :
    writeCmd v s = exec i s := by
  rw [writeCmd, hd]

/-- The second check of R126: a word that is no command is an ILLEGAL_COMMAND (R122). -/
theorem writeCmd_illegal {v : Word} {e : Illegal} {s : State} (hb : s.busy = false)
    (hd : decode v = .error e) : writeCmd v s = .next (s.clearRecord.raiseFault .illegalCommand) := by
  rw [writeCmd, hd]
  exact rejectCommand_idle hb

/-- Everything a CMD write to an idle block does: the first check of R126 that applies faults, and where
none applies the command starts. -/
theorem writeCmd_idle_cases {s : State} (hb : s.busy = false) (v : Word) :
    (∃ e, decode v = .error e ∧ writeCmd v s = .next (s.clearRecord.raiseFault .illegalCommand)) ∨
    (∃ i, decode v = .ok i ∧ (i.isKernel = true ∧ s.m = 0#64) ∧
      writeCmd v s = .next (s.clearRecord.raiseFault .zeroModulus)) ∨
    (∃ i, decode v = .ok i ∧ ¬(i.isKernel = true ∧ s.m = 0#64) ∧
      writeCmd v s = .next (s.clearRecord.start i)) := by
  cases hd : decode v with
  | error e => exact .inl ⟨e, rfl, writeCmd_illegal hb hd⟩
  | ok i =>
    rw [writeCmd_of_decode_ok hd]
    by_cases hz : i.isKernel = true ∧ s.m = 0#64
    · exact .inr (.inl ⟨i, rfl, hz, exec_zeroModulus hb hz.1 hz.2⟩)
    · exact .inr (.inr ⟨i, rfl, hz, exec_start hb (not_and.mp hz)⟩)

/-- R122's condition on the word: a nonzero bit in 63:3, or OP 5, 6 or 7. -/
theorem not_wellFormed_of_fields {v : Word}
    (h : v.extractLsb' 3 61 ≠ 0#61 ∨ v.extractLsb' 0 3 = 5#3 ∨ v.extractLsb' 0 3 = 6#3 ∨
      v.extractLsb' 0 3 = 7#3) : ¬(CmdFields.ofWord v).wellFormed = true := by
  rw [wellFormed_iff, CmdFields.ofWord]
  rintro ⟨hrsvd, (hop : (v.extractLsb' 0 3).toNat ≤ 4)⟩
  rcases h with h | h | h | h
  · exact h hrsvd
  all_goals
    rw [h] at hop
    exact absurd hop (by decide)

/-! ### The event of a CMD write -/

theorem Event.eq_host_of_writes {e : Event} {idx : BitVec 3} {v : Word} (h : e.writes idx = some v) :
    e = .host ⟨true, idx, v⟩ := by
  cases e with
  | engine | rst => cases h
  | host x =>
    obtain ⟨we, i, w⟩ := x
    simp only [Event.writes, Option.ite_none_right_eq_some, Bool.and_eq_true, beq_iff_eq,
      Option.some.injEq] at h
    obtain ⟨⟨rfl, rfl⟩, rfl⟩ := h
    rfl

/-- A HOST write to CMD as an event is `writeCmd` while reset is released (R45). -/
theorem perform_cmdWrite {s : State} (hr : s.rst = false) (v : Word) :
    perform (.host ⟨true, 3#3, v⟩) s = writeCmd v s :=
  (hostAccess_write hr 3#3 v).trans (regWrite_cmd v s)

/-! ### The fault record, effect by effect -/

theorem State.StatusInv.busy_eq_false_of_fault {s : State} (hs : s.StatusInv) (hf : s.fault = true) :
    s.busy = false :=
  Bool.eq_false_iff.mpr fun hb => by simp [hs.busy_record hb] at hf

/-- FAULT rises only by a faulting acceptance, which is taken only while `BUSY = 0` (R126, R127). -/
theorem Performs.busy_eq_false_of_fault_rise {s t : State} {e : Event} (h : Performs s e t)
    (hs : s.fault = false) (ht : t.fault = true) : s.busy = false := by
  cases h with
  | drive level => cases level <;> simp [hs] at ht
  | illegal v r hr hb | zeroModulus v i hr hb | start v i hr hb | idle hr hb => exact hb
  | held | read | discard | setA | setB | setM | status | ignored | completion => simp [hs] at ht

/-- While `BUSY = 0` only a CMD write and asserting reset touch the fault record (R128). -/
theorem Performs.record_frame {s t : State} {e : Event} (h : Performs s e t) (hb : s.busy = false)
    (hcmd : e.isCmdWrite = false) (hrst : e ≠ .rst true) :
    t.done = s.done ∧ t.fault = s.fault ∧ t.cause = s.cause := by
  cases h with
  | drive level =>
    cases level with
    | true => exact absurd rfl hrst
    | false => exact ⟨rfl, rfl, rfl⟩
  | illegal | zeroModulus | start => cases hcmd
  | completion f v hr hbusy => simp [hb] at hbusy
  | held | read | discard | setA | setB | setM | status | ignored | idle => exact ⟨rfl, rfl, rfl⟩

/-- ENGINE has no step while `BUSY = 0` (R16). -/
theorem Performs.engine_idle {s t : State} (h : Performs s .engine t) (hb : s.busy = false) : t = s := by
  cases h with
  | held | idle => rfl
  | completion f v hr hbusy => simp [hb] at hbusy

/-- Asserting the reset input clears the fault record (R141). -/
theorem Performs.record_of_assertReset {s t : State} (h : Performs s (.rst true) t) :
    t.done = false ∧ t.fault = false ∧ t.cause = .noFault := by
  cases h with
  | drive => exact ⟨rfl, rfl, rfl⟩
  | held _ he => cases he

/-! ### The obligations -/

/-- Settles O14: the step is `writeCmd`, whose checks `writeCmd_idle_cases` gives in order; where FAULT can
rise and what ENGINE does while idle are read off the effects of `Performs`. -/
theorem cmdWriteChecksInPriorityOrder : Obligations.CmdWriteChecksInPriorityOrder := by
  refine ⟨?_, ?_, ?_⟩
  · intro s v es hr hp
    rw [step_hostWrite hr hp, regWrite_cmd]
    by_cases hbusy : s.busy = true
    · exact (writeCmd_busy (s := s.beginStep es) hbusy v).trans (if_pos hbusy).symm
    · have hidle : (s.beginStep es).busy = false := Bool.eq_false_of_not_eq_true hbusy
      rcases writeCmd_idle_cases hidle v with ⟨e, hd, hw⟩ | ⟨i, hd, hz, hw⟩ | ⟨i, hd, hz, hw⟩ <;>
        rw [hw, hd]
      · exact (if_neg hbusy).symm
      · exact ((if_neg hbusy).trans (if_pos hz)).symm
      · exact ((if_neg hbusy).trans (if_neg hz)).symm
  · intro s t hs h ht
    cases hf : s.fault with
    | true => exact hs.busy_eq_false_of_fault hf
    | false => exact (step_inv h).busy_eq_false_of_fault_rise hf ht
  · intro s t he h hb
    exact (he ▸ step_inv h).engine_idle hb

/-- Settles O17: a fault record shows on an idle block alone, where `Performs.record_frame` keeps it and a
CMD write takes one of the three ways of `writeCmd_idle_cases`. -/
theorem faultRecordStaysUntilNextAcceptance : Obligations.FaultRecordStaysUntilNextAcceptance := by
  refine ⟨?_, ?_, ?_⟩
  · intro s t hs hf h hcmd hrst
    obtain ⟨hdone, hfault, hcause⟩ :=
      (step_inv h).record_frame (hs.busy_eq_false_of_fault hf) hcmd hrst
    exact ⟨hdone.trans (hs.fault_done hf), hfault.trans hf, hcause⟩
  · intro s t v hs hf hr he h
    have hb : (s.beginStep s.pending.tail).busy = false := hs.busy_eq_false_of_fault hf
    rw [step_eq_perform, Event.eq_host_of_writes he, perform_cmdWrite (s := s.beginStep _) hr] at h
    rcases writeCmd_idle_cases hb v with ⟨e, hd, hw⟩ | ⟨i, hd, -, hw⟩ | ⟨i, -, -, hw⟩ <;>
      cases hw.symm.trans h
    · exact .inr ⟨hb, rfl, rfl, by rw [hd]; rfl⟩
    · exact .inr ⟨hb, rfl, rfl, by rw [hd]; rfl⟩
    · exact .inl ⟨rfl, rfl, rfl, rfl⟩
  · intro s t he h
    exact (he ▸ step_inv h).record_of_assertReset

/-- Settles O15: such a word fails a check of `Decode`, so the idle block rejects it. -/
theorem illegalCommandWordFaults : Obligations.IllegalCommandWordFaults := by
  intro s v es hr hb hp hv
  obtain ⟨e, hd⟩ := decode_error_of_not_wellFormed (not_wellFormed_of_fields hv)
  rw [step_hostWrite hr hp, regWrite_cmd, writeCmd_illegal (s := s.beginStep es) hb hd]
  rfl

/-- Settles O16: kernel commands by the third check of R126; ISPRIME is discarded or starts, and neither
sets a cause. -/
theorem zeroModulusFaultsKernelCommands : Obligations.ZeroModulusFaultsKernelCommands := by
  refine ⟨fun s i hk hb hm => exec_zeroModulus hb hk hm, ?_⟩
  intro s t h hcause
  rw [exec_eq] at h
  rcases acceptCommand_cases h with ⟨-, rfl⟩ | ⟨-, hu, -⟩ | ⟨-, -, rfl⟩
  · exact hcause
  · simp at hu
  · simp

end Sys2Proof.Machine

/-! SUPPORT. Reset: the steps that drive the reset input and the steps it holds (R141), and what every effect
of `Performs` does to a command in flight and to an idle block (R142). -/

namespace Sys2Proof.Machine

/-! ### Driving the reset input, and the block it holds -/

theorem step_driveReset {s : State} {level : Bool} {es : List Event} (hp : s.pending = .rst level :: es) :
    step s = .next (driveReset level (s.beginStep es)) :=
  step_cons hp

/-- While reset is asserted, HOST accesses and ENGINE's turns have no effect (R141). -/
theorem perform_held {s : State} (hr : s.rst = true) {e : Event} (he : e.isReset = false) :
    perform e s = .next s := by
  cases e with
  | host x => exact hostAccess_held hr x
  | engine => exact if_pos hr
  | rst level => cases he

/-- While reset is asserted, every step but a change of its level only takes the event out. -/
theorem step_held {s : State} (hr : s.rst = true) (he : s.nextEvent.isReset = false) :
    step s = .next (s.beginStep s.pending.tail) :=
  (step_eq_perform s).trans (perform_held (s := s.beginStep s.pending.tail) hr he)

theorem reset_statusWord : State.reset.statusWord = 0#64 := rfl

/-- After reset every slot reads 0 (R141). -/
theorem reset_regRead (idx : BitVec 3) : State.reset.regRead idx = 0#64 := by
  rcases slotIndex_cases idx with rfl | rfl | rfl | rfl | rfl | rfl | rfl | rfl <;> rfl

/-! ### The events still to come -/

/-- No event puts events in or takes any out. -/
theorem Performs.pending {s t : State} {e : Event} (h : Performs s e t) : t.pending = s.pending := by
  cases h with
  | drive level => cases level <;> rfl
  | _ => rfl

/-- A step takes out the event it performs. -/
theorem step_pending {s t : State} (h : step s = .next t) : t.pending = s.pending.tail :=
  (step_inv h).pending

/-- ENGINE's turn, which follows the last event, is no CMD write. -/
theorem nextEvent_isCmdWrite {s : State} (hs : ∀ e ∈ s.pending, e.isCmdWrite = false) :
    s.nextEvent.isCmdWrite = false := by
  unfold State.nextEvent
  split
  · rfl
  · exact hs _ (by simp [*])

/-! ### The command in flight -/

/-- Asserting reset apart, an event leaves the command in flight, or is ENGINE's turn and completes it
(R142). -/
theorem Performs.command_stays_or_completes {s t : State} {e : Event} (h : Performs s e t)
    (hb : s.busy = true) (hrst : e ≠ .rst true) :
    (t.busy = true ∧ t.inflight = s.inflight ∧ t.res = s.res) ∨
    (e = .engine ∧ ∃ f v, s.inflight = some f ∧ result f = some v ∧ t = s.finish v) := by
  cases h with
  | drive level =>
    cases level with
    | true => exact absurd rfl hrst
    | false => exact .inl ⟨hb, rfl, rfl⟩
  | held | read | discard | status | ignored => exact .inl ⟨hb, rfl, rfl⟩
  | completion f v hr _ hf hv => exact .inr ⟨rfl, f, v, hf, hv, rfl⟩
  | setA v hr hidle | setB v hr hidle | setM v hr hidle | illegal v r hr hidle
  | zeroModulus v i hr hidle | start v i hr hidle | idle hr hidle => simp [hb] at hidle

/-! ### The idle block -/

/-- Without a CMD write an idle block stays idle, and RES keeps its value or is reset (R21, R142). -/
theorem Performs.stays_idle {s t : State} {e : Event} (h : Performs s e t) (hb : s.busy = false)
    (hcmd : e.isCmdWrite = false) : t.busy = false ∧ (t.res = s.res ∨ t.res = 0#64) := by
  cases h with
  | drive level =>
    cases level with
    | true => exact ⟨rfl, .inr rfl⟩
    | false => exact ⟨hb, .inl rfl⟩
  | held | read | discard | setA | setB | setM | status | ignored | idle => exact ⟨hb, .inl rfl⟩
  | illegal | zeroModulus | start => cases hcmd
  | completion f v hr hbusy => simp [hb] at hbusy

/-- What asserting reset leaves as long as no CMD write follows: an idle block with RES 0, and no CMD write
still to come. -/
structure State.NoCommandSinceReset (s : State) : Prop where
  busy : s.busy = false
  res : s.res = 0#64
  pending : ∀ e ∈ s.pending, e.isCmdWrite = false

theorem step_noCommandSinceReset {s t : State} (hs : s.NoCommandSinceReset) (h : step s = .next t) :
    t.NoCommandSinceReset := by
  obtain ⟨hbusy, hres⟩ := (step_inv h).stays_idle hs.busy (nextEvent_isCmdWrite hs.pending)
  refine ⟨hbusy, hres.elim (·.trans hs.res) id, fun e he => hs.pending e ?_⟩
  exact List.mem_of_mem_tail (step_pending h ▸ he)

/-- No run without a CMD write brings the abandoned command back. -/
theorem runsTo_noCommandSinceReset {k : Nat} {s t : State} (hs : s.NoCommandSinceReset)
    (h : RunsTo k s t) : t.NoCommandSinceReset := by
  induction k generalizing s with
  | zero => exact runsTo_zero.mp h ▸ hs
  | succ k ih =>
    obtain ⟨u, hu, hut⟩ := runsTo_succ.mp h
    exact ih (step_noCommandSinceReset hs hu) hut

/-! ### The obligations -/

/-- Settles O32: the step that asserts reset establishes `NoCommandSinceReset`, which every step keeps; a
command in flight is followed through the effects of `Performs`. -/
theorem resetAbandonsAndNothingElseCancels : Obligations.ResetAbandonsAndNothingElseCancels := by
  refine ⟨?_, ?_⟩
  · intro s t es k hp hes hrun
    obtain ⟨u, hu, hut⟩ := runsTo_succ.mp hrun
    cases (step_driveReset hp).symm.trans hu
    have ht := runsTo_noCommandSinceReset ⟨rfl, rfl, hes⟩ hut
    exact ⟨ht.busy, ht.res⟩
  · intro s t hb hrst h
    refine ((step_inv h).command_stays_or_completes hb hrst).imp_right ?_
    rintro ⟨he, f, v, hf, hv, rfl⟩
    exact ⟨he, f, v, hf, hv, rfl, rfl, rfl⟩

/-- Settles O31: the step is `driveReset` where it drives the reset input, and `step_held` where reset is
asserted and stays so. -/
theorem resetPutsEverythingAtItsResetValue : Obligations.ResetPutsEverythingAtItsResetValue :=
  ⟨fun _ _ hp => step_driveReset hp, fun _ hr he => step_held hr he, fun _ _ hp => step_driveReset hp,
    reset_statusWord, rfl, reset_regRead⟩

end Sys2Proof.Machine

/-! SUPPORT. The invariant across every effect of `Performs` and its step (R23, R28, R64, R141), and the
command in flight followed along a run until its completion and beyond (R50, R149, R151); the bits of STATUS
(R22), and INFLIGHT while no command uses it (R30). -/

namespace Sys2Proof.Machine

/-! ### The well-formedness invariant -/

/-- The reset state of the block is well formed whatever the levels and events at its boundary. -/
theorem inv_of_resetValues {s : State} (ha : s.a = 0#64) (hb : s.b = 0#64) (hm : s.m = 0#64)
    (hres : s.res = 0#64) (hbusy : s.busy = false) (hdone : s.done = false) (hfault : s.fault = false)
    (hcause : s.cause = .noFault) (hovr : s.ovr = false) (hinflight : s.inflight = none) : s.Inv :=
  { statusInv_of_cleared hdone hfault hcause with
    busy_inflight := by simp [hbusy]
    rst_reset := fun _ => ⟨ha, hb, hm, hres, hbusy, hdone, hfault, hcause, hovr, hinflight⟩ }

/-- While reset is released, the clause about an asserted reset asks nothing. -/
theorem inv_of_released {s : State} (hs : s.StatusInv)
    (hb : s.busy = true → ∃ f, s.inflight = some f ∧ (f.op.isKernel = true → f.m ≠ 0#64))
    (hr : s.rst = false) : s.Inv :=
  { hs with
    busy_inflight := hb
    rst_reset := by simp [hr] }

/-- Taking an event out concerns no clause of the invariant. -/
theorem beginStep_inv {s : State} (hs : s.Inv) (es : List Event) : (s.beginStep es).Inv :=
  { hs.toStatusInv.congr rfl rfl rfl rfl with
    busy_inflight := hs.busy_inflight
    rst_reset := hs.rst_reset }

theorem driveReset_inv {s : State} (hs : s.Inv) (level : Bool) : (driveReset level s).Inv := by
  cases level with
  | true => exact inv_of_resetValues rfl rfl rfl rfl rfl rfl rfl rfl rfl rfl
  | false => exact inv_of_released (driveReset_statusInv hs.toStatusInv false) hs.busy_inflight rfl

/-- Every effect an event can have keeps the invariant. -/
theorem Performs.inv {s t : State} {e : Event} (h : Performs s e t) (hs : s.Inv) : t.Inv := by
  have ht : t.StatusInv := h.statusInv hs.toStatusInv
  cases h with
  | drive level => exact driveReset_inv hs level
  | held | ignored | idle => exact hs
  | read _ _ hr | discard _ _ hr | setA _ hr | setB _ hr | setM _ hr | status _ hr =>
    exact inv_of_released ht hs.busy_inflight hr
  | illegal _ _ hr hb | zeroModulus _ _ hr hb => exact inv_of_released ht (by simp [hb]) hr
  | start v i hr hb hd hm => exact inv_of_released ht (fun _ => ⟨s.snapshot i, rfl, hm⟩) hr
  | completion _ _ hr => exact inv_of_released ht (by simp) hr

theorem step_keeps_inv {s t : State} (hs : s.Inv) (h : step s = .next t) : t.Inv :=
  (step_inv h).inv (beginStep_inv hs _)

/-! ### No event stops a well-formed block -/

/-- A command in flight on a well-formed block has a result. -/
theorem State.Inv.inflight_result {s : State} (hs : s.Inv) (hb : s.busy = true) :
    ∃ f v, s.inflight = some f ∧ result f = some v := by
  obtain ⟨f, hf, hm⟩ := hs.busy_inflight hb
  obtain ⟨v, hv⟩ := result_isSome (f := f) fun hop => hm (usesModulus_eq_isKernel f.op ▸ decide_eq_true hop)
  exact ⟨f, v, hf, hv⟩

theorem engineTurn_complete {s : State} {f : Inflight} {v : Word} (hr : s.rst = false)
    (hb : s.busy = true) (hf : s.inflight = some f) (hv : result f = some v) :
    engineTurn s = .next (s.finish v) := by
  simp [engineTurn, hr, hb, complete_next hf hv]

theorem engineTurn_idle {s : State} (hr : s.rst = false) (hb : s.busy = false) :
    engineTurn s = .next s := by
  simp [engineTurn, hr, hb]

/-- A HOST write to CMD answers a next state in every state (R125). -/
theorem writeCmd_next (v : Word) (s : State) : ∃ t, writeCmd v s = .next t := by
  cases hb : s.busy with
  | true => exact ⟨_, writeCmd_busy hb v⟩
  | false =>
    rcases writeCmd_idle_cases hb v with ⟨-, -, hw⟩ | ⟨-, -, -, hw⟩ | ⟨i, -, -, hw⟩ <;> exact ⟨_, hw⟩

/-- A HOST write answers a next state in every state (R125). -/
theorem regWrite_next (idx : BitVec 3) (v : Word) (s : State) : ∃ t, regWrite idx v s = .next t := by
  rcases slotIndex_cases idx with rfl | rfl | rfl | rfl | rfl | rfl | rfl | rfl
  case inr.inr.inr.inl => exact writeCmd_next v s
  all_goals exact ⟨_, rfl⟩

theorem hostAccess_next (x : Transaction) (s : State) : ∃ t, hostAccess x s = .next t := by
  obtain ⟨we, idx, w⟩ := x
  cases hr : s.rst with
  | true => exact ⟨_, hostAccess_held hr _⟩
  | false =>
    cases we with
    | true => exact hostAccess_write hr idx w ▸ regWrite_next idx w s
    | false => exact ⟨_, hostAccess_read hr idx w⟩

/-- Only ENGINE's turn could stop, and on a well-formed block it does not (R152). -/
theorem perform_next {s : State} (hs : s.Inv) (e : Event) : ∃ t, perform e s = .next t := by
  cases e with
  | host x => exact hostAccess_next x s
  | rst level => exact ⟨_, rfl⟩
  | engine =>
    cases hr : s.rst with
    | true => exact ⟨s, perform_held hr rfl⟩
    | false =>
      cases hb : s.busy with
      | false => exact ⟨s, engineTurn_idle hr hb⟩
      | true =>
        obtain ⟨f, v, hf, hv⟩ := hs.inflight_result hb
        exact ⟨_, engineTurn_complete hr hb hf hv⟩

theorem step_next {s : State} (hs : s.Inv) : ∃ t, step s = .next t :=
  step_eq_perform s ▸ perform_next (beginStep_inv hs _) s.nextEvent

/-! ### The events of a run -/

/-- The first event of a run is among those taken from the list, or is ENGINE's turn at its end. -/
theorem nextEvent_ne_rst {s : State} {k : Nat} (h : ∀ e ∈ s.pending.take (k + 1), e ≠ .rst true) :
    s.nextEvent ≠ .rst true := by
  cases hp : s.pending with
  | nil => simp [State.nextEvent, hp]
  | cons e es =>
    rw [State.nextEvent, hp]
    exact h e (by simp [hp])

/-- The later events of a run are events of the run. -/
theorem take_of_step {s u : State} {k : Nat} (hu : step s = .next u)
    (h : ∀ e ∈ s.pending.take (k + 1), e ≠ .rst true) : ∀ e ∈ u.pending.take k, e ≠ .rst true := by
  intro e he
  refine h e ?_
  rw [step_pending hu] at he
  cases hp : s.pending with
  | nil => simp [hp] at he
  | cons e' es =>
    rw [hp] at he
    exact List.mem_cons_of_mem e' he

/-- R149 along a run: until it completes, the command stays in flight and RES keeps its value. -/
theorem runsTo_command_stays_or_completes {k : Nat} {s t : State} {f : Inflight} (hb : s.busy = true)
    (hf : s.inflight = some f) (hrst : ∀ e ∈ s.pending.take k, e ≠ .rst true) (h : RunsTo k s t) :
    (t.busy = true ∧ t.inflight = some f ∧ t.res = s.res) ∨
    (∃ j u v, j ≤ k ∧ RunsTo j s u ∧ result f = some v ∧ u.res = v ∧ u.busy = false ∧ u.done = true) := by
  induction k generalizing s with
  | zero =>
    obtain rfl := runsTo_zero.mp h
    exact .inl ⟨hb, hf, rfl⟩
  | succ k ih =>
    obtain ⟨u, hu, hut⟩ := runsTo_succ.mp h
    rcases (step_inv hu).command_stays_or_completes hb (nextEvent_ne_rst hrst) with
      ⟨hub, huf, hures⟩ | ⟨-, f', v, hf', hv, rfl⟩
    · rcases ih hub (huf.trans hf) (take_of_step hu hrst) hut with
        ⟨htb, htf, htres⟩ | ⟨j, w, v, hj, hrun, hdone⟩
      · exact .inl ⟨htb, htf, htres.trans hures⟩
      · exact .inr ⟨j + 1, w, v, by omega, runsTo_succ.mpr ⟨u, hu, hrun⟩, hdone⟩
    · cases hf.symm.trans hf'
      exact .inr ⟨1, _, v, by omega, runsTo_succ.mpr ⟨_, hu, runsTo_zero.mpr rfl⟩, hv, rfl, rfl, rfl⟩

/-! ### The command in flight, up to ENGINE's first turn -/

/-- Command `f` is in flight on a well-formed block whose RES holds `r`. -/
structure State.InFlight (f : Inflight) (r : Word) (s : State) : Prop where
  inv : s.Inv
  busy : s.busy = true
  inflight : s.inflight = some f
  res : s.res = r

theorem State.Inv.rst_eq_false_of_busy {s : State} (hs : s.Inv) (hb : s.busy = true) : s.rst = false := by
  refine Bool.eq_false_iff.mpr fun hr => ?_
  obtain ⟨-, -, -, -, hidle, -⟩ := hs.rst_reset hr
  simp [hb] at hidle

/-- No event but ENGINE's turn and a reset ends the flight (R142). -/
theorem step_inFlight {f : Inflight} {r : Word} {s t : State} (hs : s.InFlight f r)
    (hengine : s.nextEvent ≠ .engine) (hrst : s.nextEvent ≠ .rst true) (h : step s = .next t) :
    t.InFlight f r := by
  rcases (step_inv h).command_stays_or_completes hs.busy hrst with ⟨hb, hf, hres⟩ | ⟨he, -⟩
  · exact ⟨step_keeps_inv hs.inv h, hb, hf.trans hs.inflight, hres.trans hs.res⟩
  · exact absurd he hengine

/-- ENGINE's turn completes the command in flight (R63). -/
theorem step_inFlight_engine {f : Inflight} {r : Word} {s : State} (hs : s.InFlight f r)
    (he : s.nextEvent = .engine) :
    ∃ t v, step s = .next t ∧ result f = some v ∧
      t.res = v ∧ t.busy = false ∧ t.done = true ∧ t.fault = false := by
  obtain ⟨f', v, hf, hv⟩ := hs.inv.inflight_result hs.busy
  cases hs.inflight.symm.trans hf
  obtain ⟨-, hfault, -⟩ := hs.inv.busy_record hs.busy
  refine ⟨(s.beginStep s.pending.tail).finish v, v, ?_, hv, rfl, rfl, rfl, hfault⟩
  rw [step_eq_perform, he]
  exact engineTurn_complete (s := s.beginStep s.pending.tail) (hs.inv.rst_eq_false_of_busy hs.busy)
    hs.busy hf hv

/-- The events before ENGINE's first turn. -/
def beforeEngine (es : List Event) : List Event := es.takeWhile fun e => decide (e ≠ .engine)

@[simp] theorem beforeEngine_nil : beforeEngine [] = [] := rfl

@[simp] theorem beforeEngine_engine (es : List Event) : beforeEngine (.engine :: es) = [] := by
  simp [beforeEngine]

theorem beforeEngine_cons {e : Event} (he : e ≠ .engine) (es : List Event) :
    beforeEngine (e :: es) = e :: beforeEngine es := by
  simp [beforeEngine, he]

/-- Either ENGINE has the next turn, or the next event is one before it. -/
theorem beforeEngine_cases (s : State) :
    (s.nextEvent = .engine ∧ beforeEngine s.pending = []) ∨
    (s.nextEvent ≠ .engine ∧
      beforeEngine s.pending = s.nextEvent :: beforeEngine s.pending.tail) := by
  cases hp : s.pending with
  | nil => exact .inl ⟨by simp [State.nextEvent, hp], rfl⟩
  | cons e es =>
    have hnext : s.nextEvent = e := by simp [State.nextEvent, hp]
    by_cases he : e = .engine
    · exact .inl ⟨hnext.trans he, by rw [he, beforeEngine_engine]⟩
    · exact .inr ⟨hnext ▸ he, by rw [hnext, beforeEngine_cons he, List.tail_cons]⟩

/-- R151: after the `n` events before ENGINE's first turn, that turn completes the command. -/
theorem inFlight_completes {n : Nat} {f : Inflight} {r : Word} {s : State} (hs : s.InFlight f r)
    (hn : (beforeEngine s.pending).length = n) (hrst : ∀ e ∈ beforeEngine s.pending, e ≠ .rst true) :
    ∃ t v, RunsTo (n + 1) s t ∧ result f = some v ∧
      t.res = v ∧ t.busy = false ∧ t.done = true ∧ t.fault = false := by
  induction n generalizing s with
  | zero =>
    rcases beforeEngine_cases s with ⟨he, -⟩ | ⟨-, hb⟩
    · obtain ⟨t, v, hstep, hdone⟩ := step_inFlight_engine hs he
      exact ⟨t, v, runsTo_succ.mpr ⟨t, hstep, runsTo_zero.mpr rfl⟩, hdone⟩
    · simp [hb] at hn
  | succ n ih =>
    rcases beforeEngine_cases s with ⟨-, hb⟩ | ⟨he, hb⟩
    · simp [hb] at hn
    · rw [hb, List.forall_mem_cons] at hrst
      obtain ⟨u, hu⟩ := step_next hs.inv
      rw [hb, ← step_pending hu, List.length_cons, Nat.add_right_cancel_iff] at hn
      obtain ⟨t, v, hrun, hdone⟩ := ih (step_inFlight hs he hrst.1 hu) hn (step_pending hu ▸ hrst.2)
      exact ⟨t, v, runsTo_succ.mpr ⟨u, hu, hrun⟩, hdone⟩

/-- Up to ENGINE's first turn the command is in flight. -/
theorem runsTo_inFlight {k : Nat} {f : Inflight} {r : Word} {s t : State} (hs : s.InFlight f r)
    (hk : k ≤ (beforeEngine s.pending).length) (hrst : ∀ e ∈ beforeEngine s.pending, e ≠ .rst true)
    (h : RunsTo k s t) : t.InFlight f r := by
  induction k generalizing s with
  | zero => exact runsTo_zero.mp h ▸ hs
  | succ k ih =>
    obtain ⟨u, hu, hut⟩ := runsTo_succ.mp h
    rcases beforeEngine_cases s with ⟨-, hb⟩ | ⟨he, hb⟩
    · simp [hb] at hk
    · rw [hb, List.forall_mem_cons] at hrst
      rw [hb, ← step_pending hu, List.length_cons, Nat.add_le_add_iff_right] at hk
      exact ih (step_inFlight hs he hrst.1 hu) hk (step_pending hu ▸ hrst.2) hut

/-! ### The result, from completion to the next acceptance -/

/-- Command `f`, whose result is `v`, is in flight or RES shows `v` with DONE 1; no fault is recorded and
reset is released. -/
structure State.Serves (f : Inflight) (v : Word) (s : State) : Prop where
  rst : s.rst = false
  fault : s.fault = false
  in_flight : s.busy = true → s.inflight = some f
  shown : s.busy = false → s.done = true ∧ s.res = v

/-- Neither ENGINE nor any HOST access but an accepted CMD write takes the result away (R50). -/
theorem Performs.serves {f : Inflight} {v : Word} {s t : State} {e : Event} (h : Performs s e t)
    (hs : s.Serves f v) (hv : result f = some v) (hrst : e ≠ .rst true)
    (hcmd : s.busy = false → e.isCmdWrite = false) : t.Serves f v := by
  obtain ⟨hr, hfault, hflight, hshown⟩ := hs
  cases h with
  | drive level =>
    cases level with
    | true => exact absurd rfl hrst
    | false => exact ⟨rfl, hfault, hflight, hshown⟩
  | held | read | discard | setA | setB | setM | status | ignored | idle =>
    exact ⟨hr, hfault, hflight, hshown⟩
  | illegal _ _ _ hb | zeroModulus _ _ _ hb | start _ _ _ hb => cases hcmd hb
  | completion f' v' _ hb hf' hv' =>
    cases hf'.symm.trans (hflight hb)
    cases hv'.symm.trans hv
    exact ⟨hr, hfault, by simp, fun _ => ⟨rfl, rfl⟩⟩

theorem step_serves {f : Inflight} {v : Word} {s t : State} (hs : s.Serves f v) (hv : result f = some v)
    (hrst : s.nextEvent ≠ .rst true) (hcmd : s.busy = false → s.nextEvent.isCmdWrite = false)
    (h : step s = .next t) : t.Serves f v :=
  (step_inv h).serves ⟨hs.rst, hs.fault, hs.in_flight, hs.shown⟩ hv hrst hcmd

theorem runsTo_serves {k : Nat} {f : Inflight} {v : Word} {s t : State} (hs : s.Serves f v)
    (hv : result f = some v) (hrst : ∀ e ∈ s.pending.take k, e ≠ .rst true)
    (hcmd : ∀ (j : Nat) (u : State), j < k → RunsTo j s u → u.busy = false →
      u.nextEvent.isCmdWrite = false)
    (h : RunsTo k s t) : t.Serves f v := by
  induction k generalizing s with
  | zero => exact runsTo_zero.mp h ▸ hs
  | succ k ih =>
    obtain ⟨u, hu, hut⟩ := runsTo_succ.mp h
    have hfirst : s.busy = false → s.nextEvent.isCmdWrite = false :=
      hcmd 0 s k.succ_pos (runsTo_zero.mpr rfl)
    refine ih (step_serves hs hv (nextEvent_ne_rst hrst) hfirst hu) (take_of_step hu hrst) ?_ hut
    exact fun j w hj hw => hcmd (j + 1) w (by omega) (runsTo_succ.mpr ⟨u, hu, hw⟩)

/-- A read placed as the next event answers the slot's value and leaves the rest as it is (R44). -/
theorem step_placedRead {s : State} (hr : s.rst = false) (idx : BitVec 3) (w : Word) (es : List Event) :
    step { s with pending := .host ⟨false, idx, w⟩ :: es } =
      .next { s with pending := es, rdata := some (s.regRead idx) } := by
  rw [step_hostRead (s := { s with pending := .host ⟨false, idx, w⟩ :: es }) hr rfl, hostRead,
    regRead_eq, regRead_eq]
  rfl

/-- An acceptance that does not start its command records a fault (R122, R123, R127). -/
theorem Performs.fault_of_cmdWrite {s t : State} {e : Event} (h : Performs s e t) (hr : s.rst = false)
    (hb : s.busy = false) (hcmd : e.isCmdWrite = true) (ht : t.busy = false) :
    t.rst = false ∧ t.done = true ∧ t.fault = true ∧ t.cause ≠ .noFault := by
  cases h with
  | held _ _ hheld => simp [hr] at hheld
  | discard _ _ _ hbusy => simp [hb] at hbusy
  | illegal | zeroModulus => exact ⟨hr, rfl, rfl, by simp⟩
  | start => simp at ht
  | ignored i v _ hi => rcases hi with rfl | rfl | rfl <;> cases hcmd
  | drive | read | setA | setB | setM | status | idle | completion => cases hcmd

/-! ### STATUS bit by bit -/

/-- A bit of a word is the digit of its value at that place. -/
theorem getLsbD_of_toNat {w : Word} {n : Nat} {b : Bool} (h : w.toNat / 2 ^ n % 2 = b.toNat) :
    w.getLsbD n = b := by
  rw [BitVec.getLsbD, Nat.testBit_eq_decide_div_mod_eq, h]
  cases b <;> rfl

/-- The fields of STATUS are the digits of the sum of R22, since none reaches the next one's place. -/
theorem statusWord_fields (s : State) :
    s.statusWord.getLsbD 0 = s.busy ∧ s.statusWord.getLsbD 1 = s.done ∧ s.statusWord.getLsbD 2 = s.fault ∧
    (s.statusWord.extractLsb' 4 4).toNat = s.cause.code ∧ s.statusWord.getLsbD 8 = s.ovr := by
  have hsum := statusWord_toNat s
  have hbusy := s.busy.toNat_le
  have hdone := s.done.toNat_le
  have hfault := s.fault.toNat_le
  have hcause := s.cause.code_cases
  have hovr := s.ovr.toNat_le
  have hcode : (s.statusWord.extractLsb' 4 4).toNat = s.cause.code := by
    rw [BitVec.extractLsb'_toNat, Nat.shiftRight_eq_div_pow]
    omega
  refine ⟨getLsbD_of_toNat ?_, getLsbD_of_toNat ?_, getLsbD_of_toNat ?_, hcode, getLsbD_of_toNat ?_⟩ <;>
    omega

/-! ### INFLIGHT while no command is in flight -/

/-- `Performs` says exactly what an event does: each of its effects is the one performed. -/
theorem Performs.perform {s t : State} {e : Event} (h : Performs s e t) : perform e s = .next t := by
  cases h with
  | drive level => rfl
  | held e he hr => exact perform_held hr he
  | read i w hr => exact hostAccess_read hr i w
  | discard i v hr hb hi => exact hostAccess_discard hr hb hi v
  | setA v hr hb | setB v hr hb | setM v hr hb =>
    exact (hostAccess_write hr _ v).trans (by simp [regWrite_eq, hb])
  | illegal v r hr hb hd => rw [perform_cmdWrite hr, writeCmd_illegal hb hd]
  | zeroModulus v i hr hb hd hk hm =>
    rw [perform_cmdWrite hr, writeCmd_of_decode_ok hd, exec_zeroModulus hb hk hm]
  | start v i hr hb hd hm => rw [perform_cmdWrite hr, writeCmd_of_decode_ok hd, exec_start hb hm]
  | status v hr => exact hostAccess_write hr 5#3 v
  | ignored i v hr hi =>
    refine (hostAccess_write hr i v).trans ?_
    rcases hi with rfl | rfl | rfl <;> rfl
  | idle hr hb => exact engineTurn_idle hr hb
  | completion f v hr hb hf hv => exact engineTurn_complete hr hb hf hv

/-- No slot shows INFLIGHT (R30, R44). -/
theorem regRead_inflight (s : State) (x : Option Inflight) (idx : BitVec 3) :
    ({ s with inflight := x } : State).regRead idx = s.regRead idx := by
  rw [regRead_eq, regRead_eq]
  rfl

/-- An event has the same effect whatever an INFLIGHT holds that no command uses (R30). -/
theorem Performs.with_inflight {s s' : State} {e : Event} (h : Performs s e s') {x : Option Inflight}
    (hx : s.busy = true → x = s.inflight) :
    ∃ t', Performs { s with inflight := x } e t' ∧ s'.SameButIdleInflight t' ∧ t'.rdata = s'.rdata := by
  cases h with
  | drive level =>
    cases level with
    | true => exact ⟨_, .drive true, ⟨rfl, fun _ => rfl⟩, rfl⟩
    | false => exact ⟨_, .drive false, ⟨rfl, hx⟩, rfl⟩
  | held e he hr => exact ⟨_, .held e he hr, ⟨rfl, hx⟩, rfl⟩
  | read i w hr =>
    refine ⟨_, .read i w hr, ⟨?_, hx⟩, ?_⟩
    · rw [hostRead, regRead_inflight]
      rfl
    · simp [regRead_inflight]
  | discard i v hr hb hi => exact ⟨_, .discard i v hr hb hi, ⟨rfl, hx⟩, rfl⟩
  | setA v hr hb => exact ⟨_, .setA v hr hb, ⟨rfl, hx⟩, rfl⟩
  | setB v hr hb => exact ⟨_, .setB v hr hb, ⟨rfl, hx⟩, rfl⟩
  | setM v hr hb => exact ⟨_, .setM v hr hb, ⟨rfl, hx⟩, rfl⟩
  | illegal v r hr hb hd => exact ⟨_, .illegal v r hr hb hd, ⟨rfl, hx⟩, rfl⟩
  | zeroModulus v i hr hb hd hk hm => exact ⟨_, .zeroModulus v i hr hb hd hk hm, ⟨rfl, hx⟩, rfl⟩
  | start v i hr hb hd hm => exact ⟨_, .start v i hr hb hd hm, ⟨rfl, fun _ => rfl⟩, rfl⟩
  | status v hr => exact ⟨_, .status v hr, ⟨rfl, hx⟩, rfl⟩
  | ignored i v hr hi => exact ⟨_, .ignored i v hr hi, ⟨rfl, hx⟩, rfl⟩
  | idle hr hb => exact ⟨_, .idle hr hb, ⟨rfl, hx⟩, rfl⟩
  | completion f v hr hb hf hv =>
    exact ⟨_, .completion f v hr hb ((hx hb).trans hf) hv, ⟨rfl, fun hidle => by cases hidle⟩, rfl⟩

/-! ### The obligations -/

/-- Settles O36: an event stops no well-formed block, `perform_next`, and each of its effects keeps the
invariant, `Performs.inv`. -/
theorem stepKeepsTheInvariantAndNeverStops : Obligations.StepKeepsTheInvariantAndNeverStops := by
  intro s hs
  obtain ⟨t, ht⟩ := step_next hs
  exact ⟨t, ht, step_keeps_inv hs ht⟩

/-- Settles O37, by induction on the run: each event leaves the command in flight or completes it. -/
theorem acceptedCommandIsUnaffectedByHost : Obligations.AcceptedCommandIsUnaffectedByHost :=
  fun _ _ _ _ _ hb hf hrst hrun => runsTo_command_stays_or_completes hb hf hrst hrun

/-- Settles O39: the run keeps `State.Serves`, so wherever BUSY is 0 RES holds the result; a faulting
acceptance is read back bit by bit. -/
theorem resultStaysReadableUntilTheNextCommand : Obligations.ResultStaysReadableUntilTheNextCommand := by
  refine ⟨?_, ?_⟩
  · intro s t f v k hs hb hf hv hrst hcmd hrun hidle
    obtain ⟨-, hfault, -⟩ := hs.busy_record hb
    have hstart : s.Serves f v :=
      ⟨hs.rst_eq_false_of_busy hb, hfault, fun _ => hf, fun h => by simp [hb] at h⟩
    obtain ⟨htr, htfault, -, hshown⟩ := runsTo_serves hstart hv hrst hcmd hrun
    obtain ⟨hdone, rfl⟩ := hshown hidle
    exact ⟨hdone, htfault, fun w es => step_placedRead htr _ w es⟩
  · intro s t hr hb hcmd h hidle w es
    obtain ⟨htr, hdone, hfault, hcause⟩ := (step_inv h).fault_of_cmdWrite hr hb hcmd hidle
    obtain ⟨-, hbit1, hbit2, hcode, -⟩ := statusWord_fields t
    exact ⟨t.statusWord, step_placedRead htr _ w es, hbit1.trans hdone,
      hbit2.trans hfault, hcode, hcause⟩

/-- Settles O40: the two states differ as `Performs.with_inflight` asks, and the effect it gives is the one
the second state's step performs. -/
theorem idleInflightIsUnobservable : Obligations.IdleInflightIsUnobservable := by
  intro s t s' hst h
  obtain ⟨heq, hx⟩ := hst
  obtain ⟨t', hperf, hsame⟩ := (step_inv h).with_inflight (x := t.inflight) hx
  refine ⟨t', ?_, hsame⟩
  rw [heq]
  exact (step_eq_perform _).trans hperf.perform

/-- Settles O38, by induction on the events before ENGINE's first turn. -/
theorem acceptedCommandCompletes : Obligations.AcceptedCommandCompletes := by
  intro s f hs hb hf before hrst
  have hstart : s.InFlight f s.res := ⟨hs, hb, hf, rfl⟩
  refine ⟨inFlight_completes hstart rfl hrst, fun k t hk hrun => ?_⟩
  obtain ⟨-, htb, htf, htres⟩ := runsTo_inFlight hstart hk hrst hrun
  exact ⟨htb, htf, htres⟩

/-- Settles O35: every field the invariant names is at its reset value, whatever is still to come. -/
theorem invariantHoldsAtReset : Obligations.InvariantHoldsAtReset :=
  ⟨inv_of_resetValues rfl rfl rfl rfl rfl rfl rfl rfl rfl rfl,
    fun _ => inv_of_resetValues rfl rfl rfl rfl rfl rfl rfl rfl rfl rfl⟩

/-- Settles O10: the fields are the digits of the sum of R22. -/
theorem statusFieldsStandAtTheirBits : Obligations.StatusFieldsStandAtTheirBits :=
  statusWord_fields

end Sys2Proof.Machine

/-! SUPPORT. What every effect of `Performs` does to BUSY, to DONE, to RES and to the operand registers: who
may change each of them (R17 to R24, R129), and the two orders of a completion and a HOST write (R49). -/

namespace Sys2Proof.Machine

/-! ### BUSY -/

/-- BUSY rises only where a command starts (R23, R62). -/
theorem Performs.busy_rise {s t : State} {e : Event} (h : Performs s e t) (hs : s.busy = false)
    (ht : t.busy = true) :
    ∃ i, e.writes 3#3 = some (encode i) ∧ s.rst = false ∧ (i.isKernel = true → s.m ≠ 0#64) ∧
      t.inflight = some ⟨i, s.a, s.b, s.m⟩ := by
  cases h with
  | start v i hr hb hd hm =>
    obtain rfl := (decode_eq_ok_iff v i).mp hd
    exact ⟨i, rfl, hr, hm, rfl⟩
  | drive level => cases level <;> simp [hs] at ht
  | held | read | discard | setA | setB | setM | illegal | zeroModulus | status | ignored | idle
  | completion => simp [hs] at ht

/-- BUSY falls only by a reset or by the completion of the command in flight (R23, R63). -/
theorem Performs.busy_fall {s t : State} {e : Event} (h : Performs s e t) (hs : s.busy = true)
    (ht : t.busy = false) :
    e = .rst true ∨
    (e = .engine ∧ ∃ f v, s.inflight = some f ∧ result f = some v ∧ t.res = v ∧ t.done = true) := by
  by_cases hrst : e = .rst true
  · exact .inl hrst
  · rcases h.command_stays_or_completes hs hrst with ⟨hb, -⟩ | ⟨he, f, v, hf, hv, rfl⟩
    · simp [ht] at hb
    · exact .inr ⟨he, f, v, hf, hv, rfl, rfl⟩

/-! ### DONE -/

/-- DONE rises only by completion or by a faulting acceptance (R24, R129). -/
theorem Performs.done_rise {s t : State} {e : Event} (h : Performs s e t) (hs : s.done = false)
    (ht : t.done = true) :
    s.rst = false ∧
    ((s.busy = true ∧ e = .engine ∧ t.busy = false) ∨
     (s.busy = false ∧ e.isCmdWrite = true ∧ t.fault = true)) := by
  cases h with
  | completion f v hr hb => exact ⟨hr, .inl ⟨hb, rfl, rfl⟩⟩
  | illegal v r hr hb | zeroModulus v i hr hb => exact ⟨hr, .inr ⟨hb, rfl, rfl⟩⟩
  | drive level => cases level <;> simp [hs] at ht
  | held | read | discard | setA | setB | setM | start | status | ignored | idle => simp [hs] at ht

/-- DONE falls only by a reset or where a command starts (R24, R129). -/
theorem Performs.done_fall {s t : State} {e : Event} (h : Performs s e t) (hs : s.done = true)
    (ht : t.done = false) :
    e = .rst true ∨ (s.rst = false ∧ s.busy = false ∧ e.isCmdWrite = true ∧ t.busy = true) := by
  cases h with
  | drive level =>
    cases level with
    | true => exact .inl rfl
    | false => simp [hs] at ht
  | start v i hr hb => exact .inr ⟨hr, hb, rfl, rfl⟩
  | held | read | discard | setA | setB | setM | illegal | zeroModulus | status | ignored | idle
  | completion => simp [hs] at ht

/-! ### RES -/

/-- RES changes only by a reset or by the completion of the command in flight (R21). -/
theorem Performs.res_cases {s t : State} {e : Event} (h : Performs s e t) :
    t.res = s.res ∨ (e = .rst true ∧ t.res = 0#64) ∨
    (e = .engine ∧ s.rst = false ∧ s.busy = true ∧ ∃ f, s.inflight = some f ∧ result f = some t.res) := by
  cases h with
  | drive level =>
    cases level with
    | true => exact .inr (.inl ⟨rfl, rfl⟩)
    | false => exact .inl rfl
  | completion f v hr hb hf hv => exact .inr (.inr ⟨rfl, hr, hb, f, hf, hv⟩)
  | held | read | discard | setA | setB | setM | illegal | zeroModulus | start | status | ignored | idle =>
    exact .inl rfl

/-! ### The operand registers -/

/-- What the operand register at slot `idx`, which holds `old`, holds after event `e` (R17 to R19, R45,
R141). -/
def operandAfter (busy : Bool) (e : Event) (idx : BitVec 3) (old : Word) : Word :=
  if e = .rst true then 0#64 else if busy then old else (e.writes idx).getD old

/-- While reset is released, only a HOST write to its own slot while `BUSY = 0` or a reset changes an operand
register (R17 to R19). -/
theorem Performs.operands {s t : State} {e : Event} (h : Performs s e t) (hr : s.rst = false) :
    t.a = operandAfter s.busy e 0#3 s.a ∧ t.b = operandAfter s.busy e 1#3 s.b ∧
      t.m = operandAfter s.busy e 2#3 s.m := by
  cases h with
  | drive level => cases level <;> simp [operandAfter, Event.writes]
  | held _ _ hheld => simp [hr] at hheld
  | discard _ _ _ hb => simp [operandAfter, hb]
  | setA _ _ hb | setB _ _ hb | setM _ _ hb => simp [operandAfter, Event.writes, hb]
  | ignored _ _ _ hi => rcases hi with rfl | rfl | rfl <;> simp [operandAfter, Event.writes]
  | read | illegal | zeroModulus | start | status | idle | completion =>
    simp [operandAfter, Event.writes]

/-! ### ENGINE's turn and a HOST write -/

/-- While a command is in flight, the step of ENGINE's turn is its completion (R16, R63). -/
theorem step_engine {s : State} (hr : s.rst = false) (hb : s.busy = true) (he : s.nextEvent = .engine) :
    step s = complete (s.beginStep s.pending.tail) := by
  rw [step_eq_perform, he]
  simp [perform, engineTurn, hr, hb]

theorem step_completion {s : State} {f : Inflight} {v : Word} {es : List Event} (hr : s.rst = false)
    (hb : s.busy = true) (hf : s.inflight = some f) (hv : result f = some v)
    (hp : s.pending = .engine :: es) : step s = .next ((s.beginStep es).finish v) := by
  rw [step_engine hr hb (by rw [State.nextEvent, hp]), hp]
  exact complete_next hf hv

/-- While a command is in flight, the step of a HOST write to A, B, M or CMD only sets OVR (R45). -/
theorem step_discard {s : State} {idx : BitVec 3} {v : Word} {es : List Event} (hr : s.rst = false)
    (hb : s.busy = true) (hi : idx.toNat ≤ 3) (hp : s.pending = .host ⟨true, idx, v⟩ :: es) :
    step s = .next (s.beginStep es).setOvr :=
  (step_hostWrite hr hp).trans (regWrite_discard (s := s.beginStep es) hi hb v)

/-- Two steps, each with its outcome, are a run of two steps. -/
theorem runsTo_two {s t u : State} (h : step s = .next t) (h' : step t = .next u) : RunsTo 2 s u :=
  runsTo_succ.mpr ⟨t, h, runsTo_succ.mpr ⟨u, h', runsTo_zero.mpr rfl⟩⟩

/-! ### The obligations -/

/-- Settles O12: only `Performs.start` raises BUSY, and a command in flight stays so until its completion or a
reset. -/
theorem busyRisesByAcceptanceFallsByCompletion : Obligations.BusyRisesByAcceptanceFallsByCompletion :=
  ⟨fun _ _ h hs ht => (step_inv h).busy_rise hs ht, fun _ _ h hs ht => (step_inv h).busy_fall hs ht⟩

/-- Settles O13: `done_o` is DONE, which stands at bit 1 of STATUS, followed through the effects of
`Performs`. -/
theorem doneOutputFollowsStatus : Obligations.DoneOutputFollowsStatus := by
  refine ⟨fun s => ?_, rfl, fun _ _ h hs ht => (step_inv h).done_rise hs ht,
    fun _ _ h hs ht => (step_inv h).done_fall hs ht⟩
  obtain ⟨-, hdone, -⟩ := statusWord_fields s
  exact hdone.symm

/-- Settles O33, effect by effect: `operandAfter` is the value the statement names. -/
theorem onlyHostWritesTheOperandRegisters : Obligations.OnlyHostWritesTheOperandRegisters :=
  fun _ _ hr h => (step_inv h).operands hr

/-- Settles O34, effect by effect. -/
theorem onlyCompletionWritesTheResult : Obligations.OnlyCompletionWritesTheResult :=
  fun _ _ h => (step_inv h).res_cases

/-- Settles O41: after the completion the write lands, before it the write is discarded. -/
theorem completionAndWriteInEitherOrder : Obligations.CompletionAndWriteInEitherOrder := by
  intro s f v w es hr hb hf hv
  constructor
  · refine runsTo_two (step_completion hr hb hf hv rfl) ?_
    exact step_hostWrite (s := State.finish v { s with rdata := none, pending := _ }) hr rfl
  · exact runsTo_two (step_discard hr hb (by decide) rfl) (step_completion hr hb hf hv rfl)

end Sys2Proof.Machine

/-! SUPPORT. The witness loop of `is_prime` in closed form (R106, R107), and Fermat's theorem with its square
roots: no base is a witness against a prime (R111). -/

namespace Sys2Proof.Machine

/-! ### One base -/

/-- The two checks of R106 and R107 on base `a`: `a ^ q` is 1, or one of its `k` repeated squares, the first
itself, is `n - 1`. -/
def PassesBase (n k q a : Nat) : Prop :=
  a ^ q % n = 1 ∨ ∃ j, j < k ∧ a ^ (q * 2 ^ j) % n = n - 1

/-- The bound `k` on `j` keeps `2 ^ j` below `n - 1`. -/
theorem two_pow_lt_of_decomposition {n k q j : Nat} (hq : q % 2 = 1) (hkq : n - 1 = 2 ^ k * q)
    (hj : j < k) : 2 ^ j < n - 1 := by
  calc
    2 ^ j < 2 ^ k := Nat.pow_lt_pow_right one_lt_two hj
    _ ≤ 2 ^ k * q := Nat.le_mul_of_pos_right _ (by omega)
    _ = n - 1 := hkq.symm

/-- The inner exponent of R107 is `2 ^ j`. -/
theorem modPow_two_eq {n k q j : Nat} (hn : n < 2 ^ 64) (hq : q % 2 = 1) (hkq : n - 1 = 2 ^ k * q)
    (hj : j < k) : modPow 2 j (n - 1) = 2 ^ j := by
  have hlt : 2 ^ j < n - 1 := two_pow_lt_of_decomposition hq hkq hj
  have hj64 : j < 2 ^ 64 := Nat.lt_two_pow_self.trans (by omega)
  rw [modPow_eq (Nat.zero_lt_of_lt hlt) (by omega) (by decide) hj64, Nat.mod_eq_of_lt hlt]
  split
  · rename_i hj0
    rw [hj0, pow_zero]
  · rfl

/-- Step 4's value is `a ^ q mod n`, since `q` is not 0. -/
theorem modPow_odd_eq {n q a : Nat} (hn : n < 2 ^ 64) (h5 : 5 ≤ n) (hq : q % 2 = 1) (hqn : q < n)
    (ha : a < 2 ^ 64) : modPow a q n = a ^ q % n := by
  rw [modPow_eq (by omega) hn ha (hqn.trans hn), if_neg (by omega)]

/-- Step 5's value for `j` is `a ^ (q * 2 ^ j) mod n`. -/
theorem modPow_square_eq {n k q j : Nat} (hn : n < 2 ^ 64) (h5 : 5 ≤ n) (hq : q % 2 = 1)
    (hkq : n - 1 = 2 ^ k * q) (hj : j < k) (a : Nat) :
    modPow (a ^ q % n) (modPow 2 j (n - 1)) n = a ^ (q * 2 ^ j) % n := by
  have hlt : 2 ^ j < n - 1 := two_pow_lt_of_decomposition hq hkq hj
  have ha : a ^ q % n < 2 ^ 64 := (Nat.mod_lt _ (by omega)).trans hn
  rw [modPow_two_eq hn hq hkq hj, modPow_eq (by omega) hn ha (by omega), if_neg (by positivity),
    ← Nat.pow_mod, pow_mul]

theorem inconclusive_of_skipped {n a : Nat} (ha : n - 1 ≤ a) (k q : Nat) : inconclusive n k q a = true := by
  rw [inconclusive, if_pos ha]

/-- R106, R107: a base below `n - 1` is inconclusive exactly when it passes one of the checks. -/
theorem inconclusive_iff {n k q a : Nat} (hn : n < 2 ^ 64) (h5 : 5 ≤ n) (hq : q % 2 = 1)
    (hkq : n - 1 = 2 ^ k * q) (ha : a < n - 1) : inconclusive n k q a = true ↔ PassesBase n k q a := by
  have hqn : q ≤ n - 1 := hkq ▸ Nat.le_mul_of_pos_left _ (by positivity)
  have hloop : reachesMinusOne n (a ^ q % n) k 0 = true ↔
      ∃ j, j < k ∧ a ^ (q * 2 ^ j) % n = n - 1 := by
    rw [reachesMinusOne_iff]
    refine exists_congr fun j => and_congr_right fun hj => ?_
    rw [Nat.zero_add, modPow_square_eq hn h5 hq hkq hj]
  rw [inconclusive, if_neg (by omega), modPow_odd_eq hn h5 hq (by omega) (by omega), PassesBase, ← hloop]
  split <;> simp [*]

/-! ### The whole test -/

/-- `n` passes the checks on every base of BASES below `n - 1`, for the given decomposition of `n - 1`. -/
def PassesAllBases (n k q : Nat) : Prop := ∀ a ∈ bases, a < n - 1 → PassesBase n k q a

/-- The test of an odd `n` from 5 on is PRIME exactly when no base below `n - 1` is a witness. -/
theorem isPrime_iff_passesAllBases {n k q : Nat} (hn : n < 2 ^ 64) (h5 : 5 ≤ n) (hodd : n % 2 = 1)
    (hq : q % 2 = 1) (hkq : n - 1 = 2 ^ k * q) : isPrime n = .prime ↔ PassesAllBases n k q := by
  rw [isPrime_eq_testBases (by omega) (by omega), decompose_eq hn hq hkq, testBases_prime_iff]
  refine forall₂_congr fun a _ => ?_
  by_cases ha : a < n - 1
  · rw [inconclusive_iff hn h5 hq hkq ha, forall_prop_of_true ha]
  · exact iff_of_true (inconclusive_of_skipped (by omega) k q) (absurd · ha)

theorem exists_decomposition {n : Nat} (h5 : 5 ≤ n) : ∃ k q, n - 1 = 2 ^ k * q ∧ q % 2 = 1 := by
  obtain ⟨k, q, hq, hkq⟩ := Nat.exists_eq_two_pow_mul_odd (n := n - 1) (by omega)
  exact ⟨k, q, hkq, Nat.odd_iff.mp hq⟩

/-- Steps 1 and 2 leave the odd `n` from 5 on, which the bases decide (R104). -/
theorem isPrime_iff {n : Nat} (hn : n < 2 ^ 64) :
    isPrime n = .prime ↔
      n = 2 ∨ n = 3 ∨
      (5 ≤ n ∧ n % 2 = 1 ∧ ∃ k q, n - 1 = 2 ^ k * q ∧ q % 2 = 1 ∧ PassesAllBases n k q) := by
  by_cases hodd : 5 ≤ n ∧ n % 2 = 1
  · obtain ⟨h5, hodd⟩ := hodd
    constructor
    · intro hprime
      obtain ⟨k, q, hkq, hq⟩ := exists_decomposition h5
      exact .inr (.inr ⟨h5, hodd, k, q, hkq, hq, (isPrime_iff_passesAllBases hn h5 hodd hq hkq).mp hprime⟩)
    · rintro (rfl | rfl | ⟨-, -, k, q, hkq, hq, hpass⟩)
      · exact isPrime_two
      · exact isPrime_three
      · exact (isPrime_iff_passesAllBases hn h5 hodd hq hkq).mpr hpass
  · have hsmall : n = 2 ∨ n = 3 ∨ n = 1 ∨ (n % 2 = 0 ∧ n ≠ 2) := by omega
    rcases hsmall with rfl | rfl | rfl | ⟨heven, hne⟩
    · simp [isPrime_two]
    · simp [isPrime_three]
    · simp [isPrime_one]
    · rw [isPrime_of_even heven hne]
      refine iff_of_false (by simp) ?_
      rintro (rfl | rfl | ⟨h5, hn2, -⟩) <;> omega

/-! ### A prime passes every base -/

/-- In a domain 1 has no square roots but 1 and -1: from a power `x ^ 2 ^ k = 1` going back by square roots,
either -1 comes up or `x` itself is 1. -/
theorem eq_one_or_pow_eq_neg_one {R : Type} [CommRing R] [NoZeroDivisors R] {x : R} {k : Nat}
    (h : x ^ 2 ^ k = 1) : x = 1 ∨ ∃ j, j < k ∧ x ^ 2 ^ j = -1 := by
  induction k with
  | zero => exact .inl (by simpa using h)
  | succ k ih =>
    rw [pow_succ, pow_mul, sq_eq_one_iff] at h
    rcases h with h | h
    · exact (ih h).imp_right fun ⟨j, hj, hroot⟩ => ⟨j, by omega, hroot⟩
    · exact .inr ⟨k, by omega, h⟩

/-- A value is -1 modulo `n` when its residue is `n - 1`. -/
theorem mod_eq_pred_of_cast_eq_neg_one {n x : Nat} (hn : 0 < n) (h : (x : ZMod n) = -1) :
    x % n = n - 1 := by
  have hcast : (x : ZMod n) = ((n - 1 : Nat) : ZMod n) := by
    rw [h, Nat.cast_sub hn, ZMod.natCast_self, Nat.cast_one, zero_sub]
  rw [(ZMod.natCast_eq_natCast_iff' _ _ _).mp hcast, Nat.mod_eq_of_lt (by omega)]

theorem mod_eq_one_of_cast_eq_one {n x : Nat} (hn : 1 < n) (h : (x : ZMod n) = 1) : x % n = 1 := by
  rw [← Nat.cast_one, ZMod.natCast_eq_natCast_iff'] at h
  rw [h, Nat.mod_eq_of_lt hn]

/-- No base that the prime does not divide is a witness against it. -/
theorem passesBase_of_prime {p k q a : Nat} (hp : p.Prime) (hkq : p - 1 = 2 ^ k * q) (ha : 0 < a)
    (hap : a < p) : PassesBase p k q a := by
  have : Fact p.Prime := ⟨hp⟩
  have hne : (a : ZMod p) ≠ 0 := by
    rw [Ne, ZMod.natCast_eq_zero_iff]
    exact Nat.not_dvd_of_pos_of_lt ha hap
  have hfermat : ((a : ZMod p) ^ q) ^ 2 ^ k = 1 := by
    rw [← pow_mul, mul_comm, ← hkq, ZMod.pow_card_sub_one_eq_one hne]
  rcases eq_one_or_pow_eq_neg_one hfermat with h | ⟨j, hj, h⟩
  · exact .inl (mod_eq_one_of_cast_eq_one hp.one_lt (by rw [Nat.cast_pow, h]))
  · exact .inr ⟨j, hj, mod_eq_pred_of_cast_eq_neg_one hp.pos (by rw [pow_mul, Nat.cast_pow, Nat.cast_pow, h])⟩

theorem pos_of_mem_bases {a : Nat} (ha : a ∈ bases) : 0 < a := by
  revert a
  decide

/-- A prime is never declared COMPOSITE (spec/90_conflicts.md C2). -/
theorem isPrime_of_prime {p : Nat} (hlt : p < 2 ^ 64) (hp : p.Prime) : isPrime p = .prime := by
  rw [isPrime_iff hlt]
  have htwo := hp.two_le
  rcases hp.eq_two_or_odd with h2 | hodd
  · exact .inl h2
  · by_cases h3 : p = 3
    · exact .inr (.inl h3)
    · have h5 : 5 ≤ p := by omega
      obtain ⟨k, q, hkq, hq⟩ := exists_decomposition h5
      exact .inr (.inr ⟨h5, hodd, k, q, hkq, hq, fun a ha hlt' =>
        passesBase_of_prime hp hkq (pos_of_mem_bases ha) (by omega)⟩)

/-! ### The obligations -/

/-- Settles O27: each value of `mod_pow` that steps 4 and 5 compare is the power it stands for. -/
theorem witnessLoopChecksTheSquareRoots : Obligations.WitnessLoopChecksTheSquareRoots :=
  fun _ k q _ hn h5 _ hq hkq _ =>
    ⟨fun ha => inconclusive_of_skipped ha k q, fun ha => inconclusive_iff hn h5 hq hkq ha,
      fun _ hj => modPow_two_eq hn hq hkq hj⟩

/-- Settles O28: steps 1 and 2, then the checks on every base, for the one decomposition of `n - 1`. -/
theorem isPrimeIsTheStrongProbablePrimeTest : Obligations.IsPrimeIsTheStrongProbablePrimeTest :=
  fun _ hn => isPrime_iff hn

/-- Settles O29: by Fermat's theorem and the square roots of 1 modulo a prime, no base is a witness. -/
theorem primesAreNeverDeclaredComposite : Obligations.PrimesAreNeverDeclaredComposite := by
  refine ⟨fun p => isPrime_of_prime, fun s hb hprime => ?_⟩
  obtain ⟨t, hexec, -, hdone⟩ :=
    exec_then_complete (i := .isprime) hb (fun hkernel => absurd hkernel (by decide)) (resultIsprime_eq s.a)
  exact ⟨t, _, hexec, hdone, if_pos (isPrime_of_prime s.a.isLt hprime)⟩

end Sys2Proof.Machine

/-! SUPPORT. The block's boundary: command words bit by bit (R57), the transaction record (R56), the step that
runs a command, and the bus adapter's map (R40). -/

namespace Sys2Proof.Machine

/-! ### The transaction record -/

/-- A field of the record that ends within its 68 bits loses none of them to the shift. -/
theorem setWidth_shiftLeft_toNat {w n : Nat} (x : BitVec w) (hn : w + n ≤ 68) :
    (x.setWidth 68 <<< n).toNat = 2 ^ n * x.toNat := by
  have hplaced : 2 ^ n * x.toNat < 2 ^ 68 := by
    calc
      2 ^ n * x.toNat < 2 ^ n * 2 ^ w := Nat.mul_lt_mul_of_pos_left x.isLt (by positivity)
      _ = 2 ^ (w + n) := by rw [← pow_add, Nat.add_comm]
      _ ≤ 2 ^ 68 := Nat.pow_le_pow_right two_pos hn
  rw [BitVec.toNat_shiftLeft, BitVec.toNat_setWidth_of_le (by omega), Nat.shiftLeft_eq, Nat.mul_comm,
    Nat.mod_eq_of_lt hplaced]

/-- The record as a number: the three fields stand one above the other, so none overlaps another (R56). -/
theorem toRecord_toNat (t : Transaction) :
    t.toRecord.toNat = t.we.toNat * 2 ^ 67 + t.idx.toNat * 2 ^ 64 + t.wdata.toNat := by
  have hidx : 2 ^ 64 * t.idx.toNat < 2 ^ 67 := by omega
  have hhigh : 2 ^ 67 * t.we.toNat + 2 ^ 64 * t.idx.toNat = 2 ^ 64 * (8 * t.we.toNat + t.idx.toNat) := by
    omega
  rw [Transaction.toRecord, BitVec.toNat_or, BitVec.toNat_or, setWidth_shiftLeft_toNat _ (by decide),
    setWidth_shiftLeft_toNat _ (by decide), BitVec.toNat_setWidth_of_le (by decide), BitVec.toNat_ofBool,
    ← Nat.two_pow_add_eq_or_of_lt hidx, hhigh, ← Nat.two_pow_add_eq_or_of_lt t.wdata.isLt]
  omega

theorem ofRecord_we_toNat (r : BitVec 68) : (Transaction.ofRecord r).we.toNat = r.toNat / 2 ^ 67 := by
  have hr := r.isLt
  rw [Transaction.ofRecord, BitVec.getLsbD, Nat.toNat_testBit]
  omega

theorem ofRecord_idx_toNat (r : BitVec 68) :
    (Transaction.ofRecord r).idx.toNat = r.toNat / 2 ^ 64 % 2 ^ 3 := by
  simp [Transaction.ofRecord, Nat.shiftRight_eq_div_pow]

theorem ofRecord_wdata_toNat (r : BitVec 68) : (Transaction.ofRecord r).wdata.toNat = r.toNat % 2 ^ 64 := by
  simp [Transaction.ofRecord]

theorem toRecord_ofRecord (r : BitVec 68) : (Transaction.ofRecord r).toRecord = r := by
  have hr := r.isLt
  apply BitVec.eq_of_toNat_eq
  rw [toRecord_toNat, ofRecord_we_toNat, ofRecord_idx_toNat, ofRecord_wdata_toNat]
  omega

/-- A transaction is given by its three fields as numbers. -/
theorem Transaction.eq_of_toNat {t u : Transaction} (hwe : t.we.toNat = u.we.toNat)
    (hidx : t.idx.toNat = u.idx.toNat) (hwdata : t.wdata.toNat = u.wdata.toNat) : t = u := by
  cases t
  cases u
  rw [Transaction.mk.injEq]
  exact ⟨Function.LeftInverse.injective Bool.ofNat_toNat hwe, BitVec.eq_of_toNat_eq hidx,
    BitVec.eq_of_toNat_eq hwdata⟩

theorem ofRecord_toRecord (t : Transaction) : Transaction.ofRecord t.toRecord = t := by
  have hsum := toRecord_toNat t
  apply Transaction.eq_of_toNat
  · rw [ofRecord_we_toNat]
    omega
  · rw [ofRecord_idx_toNat]
    omega
  · rw [ofRecord_wdata_toNat]
    omega

/-! ### The step that runs a command -/

/-- While reset is released, the step of HOST's write of a command's word to CMD runs that command. -/
theorem step_cmdWrite {s : State} {v : Word} {i : Instr} {es : List Event} (hr : s.rst = false)
    (hp : s.pending = .host (cmdWrite v) :: es) (hd : decode v = .ok i) :
    step s = exec i (s.beginStep es) := by
  rw [step_hostWrite hr hp, regWrite_cmd, writeCmd_of_decode_ok hd]

/-- A table word that decodes is the command word of 64 bits with the same low bits. -/
theorem decode_of_decodeTableWord {nbits w : Nat} {i : Instr} (h : decodeTableWord nbits w = some i) :
    decode (BitVec.ofNat 64 (w % 2 ^ nbits)) = .ok i := by
  simp only [decodeTableWord] at h
  split at h
  · split at h
    · cases h
      assumption
    · cases h
  · cases h

/-! ### The bus adapter -/

/-- An address leads to slot `idx` exactly when it is one of its eight (R40). -/
theorem slotOfAddress_eq_some_iff (addr : Nat) (idx : BitVec 3) :
    Adapter.slotOfAddress addr = some idx ↔
      Config.baseAddr + 8 * idx.toNat ≤ addr ∧ addr ≤ Config.baseAddr + 8 * idx.toNat + 7 := by
  have hidx := idx.isLt
  rw [Adapter.slotOfAddress, Option.ite_none_right_eq_some, Option.some.injEq, ← BitVec.toNat_inj,
    BitVec.toNat_ofNat]
  omega

/-- No address outside the 64 bytes of the slot space leads to a slot (R40). -/
theorem slotOfAddress_outside {addr : Nat}
    (h : addr < Config.baseAddr ∨ Config.baseAddr + 64 ≤ addr) : Adapter.slotOfAddress addr = none :=
  if_neg (by omega)

/-! ### The obligations -/

/-- Settles O2: the five words are the codes of the commands; the others have a bit of RSVD set or an OP above
4. -/
theorem writtenOutCommandWordsDecode : Obligations.WrittenOutCommandWordsDecode :=
  ⟨decode_encode .modadd, decode_encode .modsub, decode_encode .modmul, decode_encode .modpow,
    decode_encode .isprime, decode_of_reservedOp rfl rfl, decode_of_reservedOp rfl rfl,
    decode_of_reservedBits rfl, decode_of_reservedBits rfl⟩

/-- Settles O3: the record is the sum of its fields, each at its place. -/
theorem transactionRecordRoundTrips : Obligations.TransactionRecordRoundTrips :=
  ⟨ofRecord_toRecord, toRecord_ofRecord, toRecord_toNat⟩

/-- Settles O5: the step of a CMD write is `step_cmdWrite`, of ENGINE's turn `step_engine`. -/
theorem stepRunsTheDecodedCommand : Obligations.StepRunsTheDecodedCommand :=
  ⟨fun _ _ _ _ hr hp hd => step_cmdWrite hr hp hd,
    fun _ _ _ _ hi => step_cmdWrite rfl rfl (decode_of_decodeTableWord hi),
    fun _ hr hb he => step_engine hr hb he⟩

/-- Settles O42: the eight addresses of a slot are those of `slotOfAddress_eq_some_iff`. -/
theorem adapterMapsEightBytesToEachSlot : Obligations.AdapterMapsEightBytesToEachSlot :=
  ⟨fun _ => rfl, fun idx k hk => (slotOfAddress_eq_some_iff _ idx).mpr (by omega),
    fun addr idx => (slotOfAddress_eq_some_iff addr idx).mp, fun _ => slotOfAddress_outside⟩

end Sys2Proof.Machine
